-- ==== Sys2Proof/Word.lean ====
section
/-! DEFINITION. The word types of the serial protocol bit assembler: bytes, wire levels, sample positions, rates,
the Bit Slot and bit strings (`00_scope.md` rules R9 and R11, `10_state.md` section 1). -/

namespace Sys2Proof

/-- A byte: an accumulator, an opcode, the `value` of an event record (R20, R74). Bit 0 is the least significant (R9). -/
abbrev Byte := BitVec 8

/-- The logic level of a wire at one instant, or a one-bit flag: `true` is 1, `false` is 0 (R12 "Sample", R31). -/
abbrev Level := Bool

/-- A sample position. Its width `POS_W` is open and a model may take positions as unbounded naturals (R5, D4);
this model does (log entry 1). The core only copies positions (R11). -/
abbrev Pos := Nat

/-- A sample rate. Its width `RATE_W` is open and nothing reads the value (R5, R37, D5); unbounded here (log entry 1). -/
abbrev Rate := Nat

/-- The Bit Slot, 0 to 8; the values 9 to 15 of the 4-bit register are unrepresentable, as R85 asks (R28, D3). -/
abbrev Slot := Fin 9

/-- A packed word as a string of bits, the most significant bit first: `a ++ b` is the spec's concatenation of `a`
and `b` with `a` in the more significant bits (R9). -/
abbrev BitString := List Bool

end Sys2Proof
end

