-- ==== Sys2Proof/Config.lean ====
section
/-! DEFINITION. What the spec leaves open: the widths `POS_W` and `RATE_W`, the texts `SYNC_LABEL` and
`WARNING_TEXT` (`00_scope.md` rule R5), and the value of a position register that nothing has written
(`93_implementation_defined.md` U5). The opaque constants have no body: no proof can see their values. -/

namespace Sys2Proof

/-- The two open widths of R5, as the argument of everything that packs a position or a rate into a word. -/
structure Widths where
  /-- `POS_W` (D4). -/
  posW : Nat
  /-- `RATE_W` (D5). -/
  rateW : Nat
deriving DecidableEq, Repr

/-- `SYNC_LABEL`, the fixed display string of a sync event: open (R5, R93, D12). -/
opaque Config.syncLabel : String

/-- `WARNING_TEXT`, the free text of a warning diagnostic: open, never emitted by the core (R5, R84, D13). -/
opaque Config.warningText : String

/-- FREE VALUE (log entry 4): what `start_pos` reads as while it holds `none`, after the n-th initialisation of the
session registers. U5 says `any value`; by R43 (e) no reachable state reads it. -/
opaque Config.unwrittenPos : Nat → Pos

end Sys2Proof
end

