-- ==== Sys2Proof/Syntax.lean ====
section
/-! DEFINITION. The operations of the block: one constructor of `Instr` for each row of `spec/opcode_table.json`
(the ten commands, the five transactions and the two reserved codes, the four micro-operations of `EDGE`, the five
record categories). -/

namespace Sys2Proof

/-- The capability record of `SESSION_START`: is each of the four wires configured? (R34, R36). -/
structure Capabilities where
  /-- `cfg.has_clk`, wire role 0, required. -/
  hasClk : Level
  /-- `cfg.has_din`, wire role 1, required. -/
  hasDin : Level
  /-- `cfg.has_dout`, wire role 2, optional. -/
  hasDout : Level
  /-- `cfg.has_msel`, wire role 3, optional. -/
  hasMsel : Level
deriving DecidableEq, Repr

/-- The category of an event record (R78); the unused codes 5 to 7 are unrepresentable (R85). -/
inductive Category where
  /-- `DATA_IN`, code 0. -/
  | dataIn
  /-- `DATA_OUT`, code 1. -/
  | dataOut
  /-- `COMMAND`, code 2. -/
  | command
  /-- `SYNC`, code 3. -/
  | sync
  /-- `WARNING`, code 4, reserved (R84). -/
  | warning
deriving DecidableEq, Repr

/-- The ten commands of the Command Table (R82, R100); the command indices 10 to 15 are unrepresentable (R85). -/
inductive Command where
  | setOffsetL
  | setOffsetH
  | setData
  | getOffset
  | readFlash
  | ping
  | readCustom
  | setXpage
  | writeFlash
  | writeCustom
deriving DecidableEq, Repr

/-- An operation of the block. The block has no instruction set (R1); "operations" are the input transactions it
accepts, the micro-operations of an edge, the records it emits and the classification of a data-in byte. -/
inductive Instr where
  /-- SET_OFFSET_L (R101): the data-in byte 0x40 of the frame whose sync edge is at `pos` is classified. -/
  | setOffsetL (pos : Pos)
  /-- SET_OFFSET_H (R102), data-in byte 0x41. -/
  | setOffsetH (pos : Pos)
  /-- SET_DATA (R103), data-in byte 0x42. -/
  | setData (pos : Pos)
  /-- GET_OFFSET (R104), data-in byte 0x43. -/
  | getOffset (pos : Pos)
  /-- READ_FLASH (R105), data-in byte 0x44. -/
  | readFlash (pos : Pos)
  /-- PING (R106), data-in byte 0x49. -/
  | ping (pos : Pos)
  /-- READ_CUSTOM (R107), data-in byte 0x4A. -/
  | readCustom (pos : Pos)
  /-- SET_XPAGE (R108), data-in byte 0x4C. -/
  | setXpage (pos : Pos)
  /-- WRITE_FLASH (R109), data-in byte 0x6E. -/
  | writeFlash (pos : Pos)
  /-- WRITE_CUSTOM (R110), data-in byte 0xA5. -/
  | writeCustom (pos : Pos)
  /-- SESSION_START (R160), `op` 0. -/
  | sessionStart (cfg : Capabilities)
  /-- SAMPLERATE (R165), `op` 1. -/
  | samplerate (rate : Rate)
  /-- SAMPLE (R171), `op` 2. -/
  | sample (clk din dout msel : Level) (pos : Pos)
  /-- EDGE (R120), `op` 3. -/
  | edge (din dout : Level) (pos : Pos)
  /-- END_OF_STREAM (R175), `op` 4. -/
  | endOfStream
  /-- The reserved code `op` 5 (R85). -/
  | reservedOp5
  /-- The reserved codes `op` 6 (`low` is 0) and `op` 7 (`low` is 1) (R85). -/
  | reservedOp6_7 (low : Level)
  /-- FRAME_START (R121), a micro-operation of EDGE; `pos` is the edge's. -/
  | frameStart (pos : Pos)
  /-- SHIFT, data-in half (R123); `din` is the edge's. -/
  | shiftDin (din : Level)
  /-- SHIFT, data-out half (R124); `dout` is the edge's. -/
  | shiftDout (dout : Level)
  /-- SYNC (R125); `pos` is the sync edge's. -/
  | sync (pos : Pos)
  /-- The DATA_IN record (R141). -/
  | recDataIn (start stop : Pos) (value : Byte)
  /-- The COMMAND record (R142). -/
  | recCommand (start stop : Pos) (value : Byte)
  /-- The DATA_OUT record (R143). -/
  | recDataOut (start stop : Pos) (value : Byte)
  /-- The SYNC record (R144): its one operand is both `start` and `end`. -/
  | recSync (stop : Pos)
  /-- The reserved WARNING record (R84). -/
  | recWarning
deriving DecidableEq, Repr

end Sys2Proof
end

