-- ==== Sys2Proof/WellFormed.lean ====
section
/-! DEFINITION. Well-formed operations. Every other restriction of the spec's fields is in the types (`Slot`,
`Category`, `Command`: rule R85); what is left is that positions and rates fit the open widths `POS_W` and `RATE_W`
at which a word is packed (`00_scope.md` rule R5). -/

namespace Sys2Proof

/-- A position fits `POS_W` bits (R5, D4). -/
def posFits (w : Widths) (p : Pos) : Bool := decide (p < 2 ^ w.posW)

/-- A rate fits `RATE_W` bits (R5, D5). -/
def rateFits (w : Widths) (r : Rate) : Bool := decide (r < 2 ^ w.rateW)

/-- An operation whose open-width operands fit the widths. -/
def Instr.wellFormed (w : Widths) : Instr → Bool
  | .setOffsetL pos => posFits w pos
  | .setOffsetH pos => posFits w pos
  | .setData pos => posFits w pos
  | .getOffset pos => posFits w pos
  | .readFlash pos => posFits w pos
  | .ping pos => posFits w pos
  | .readCustom pos => posFits w pos
  | .setXpage pos => posFits w pos
  | .writeFlash pos => posFits w pos
  | .writeCustom pos => posFits w pos
  | .sessionStart _ => true
  | .samplerate rate => rateFits w rate
  | .sample _ _ _ _ pos => posFits w pos
  | .edge _ _ pos => posFits w pos
  | .endOfStream => true
  | .reservedOp5 => true
  | .reservedOp6_7 _ => true
  | .frameStart pos => posFits w pos
  | .shiftDin _ => true
  | .shiftDout _ => true
  | .sync pos => posFits w pos
  | .recDataIn start stop _ => posFits w start && posFits w stop
  | .recCommand start stop _ => posFits w start && posFits w stop
  | .recDataOut start stop _ => posFits w start && posFits w stop
  | .recSync stop => posFits w stop
  | .recWarning => true

end Sys2Proof
end

