-- ==== Sys2Proof/Decode.lean ====
section
/-! DEFINITION. The encodings of `30_encoding.md` and the opcode table: bit strings, the Command Table, the decoder
(total, rejecting by name), after it the encoder, and the opcode table's own numbering of a word. -/

namespace Sys2Proof

/-! ### Bit strings -/

/-- The number a bit string writes, most significant bit first (R9). -/
def ofBits : BitString → Nat
  | [] => 0
  | b :: bs => b.toNat * 2 ^ bs.length + ofBits bs

/-- The `w` low bits of a number, most significant first (R9). -/
def toBits : Nat → Nat → BitString
  | 0, _ => []
  | w + 1, n => n.testBit w :: toBits w n

/-- A byte as eight bits, bit 7 first. -/
def byteBits (b : Byte) : BitString := toBits 8 b.toNat

/-! ### The Command Table -/

/-- The ten entries of the Command Table, in the table's order (R82, R100, R61). -/
def commandTable : List (Byte × Command) :=
  [ (0x40, .setOffsetL), (0x41, .setOffsetH), (0x42, .setData), (0x43, .getOffset), (0x44, .readFlash),
    (0x49, .ping), (0x4A, .readCustom), (0x4C, .setXpage), (0x6E, .writeFlash), (0xA5, .writeCustom) ]

/-- `CmdRom`: the command of a byte, none for the other 246 bytes (R100, R111). All 8 bits take part (R82). -/
def cmdRom (b : Byte) : Option Command :=
  (commandTable.find? fun row => row.1 == b).map (·.2)

/-- The opcode of a command (R101 to R110). -/
def Command.opcode : Command → Byte
  | .setOffsetL => 0x40
  | .setOffsetH => 0x41
  | .setData => 0x42
  | .getOffset => 0x43
  | .readFlash => 0x44
  | .ping => 0x49
  | .readCustom => 0x4A
  | .setXpage => 0x4C
  | .writeFlash => 0x6E
  | .writeCustom => 0xA5

/-- The command index `k`, the position in the table's list (R82, R100, D24). -/
def Command.index : Command → Fin 10
  | .setOffsetL => 0
  | .setOffsetH => 1
  | .setData => 2
  | .getOffset => 3
  | .readFlash => 4
  | .ping => 5
  | .readCustom => 6
  | .setXpage => 7
  | .writeFlash => 8
  | .writeCustom => 9

/-- `CmdName`: the name beside the index, exactly as written (R100). -/
def Command.name : Command → String
  | .setOffsetL => "SET_OFFSET_L"
  | .setOffsetH => "SET_OFFSET_H"
  | .setData => "SET_DATA"
  | .getOffset => "GET_OFFSET"
  | .readFlash => "READ_FLASH"
  | .ping => "PING"
  | .readCustom => "READ_CUSTOM"
  | .setXpage => "SET_XPAGE"
  | .writeFlash => "WRITE_FLASH"
  | .writeCustom => "WRITE_CUSTOM"

/-- The operation that classifies a frame as this command. -/
def Command.toInstr : Command → Pos → Instr
  | .setOffsetL => .setOffsetL
  | .setOffsetH => .setOffsetH
  | .setData => .setData
  | .getOffset => .getOffset
  | .readFlash => .readFlash
  | .ping => .ping
  | .readCustom => .readCustom
  | .setXpage => .setXpage
  | .writeFlash => .writeFlash
  | .writeCustom => .writeCustom

/-! ### The decoder -/

/-- Where a word is matched. The table's four `format`s, with one port for each of the four micro-operations: each
is selected by a comparison of its own on the `bit_slot` register, and at slot 0 three of them match at once (R134). -/
inductive Port where
  /-- The data-in byte of a finalised frame (`CMD8`, R82), then the sync edge's `pos`, which the byte does not hold. -/
  | cmd8
  /-- An input transaction (`TXN`, R70). -/
  | txn
  /-- `bit_slot` on arrival (`UOP`, R77), then the `pos` of the EDGE. -/
  | uopFrameStart
  /-- `bit_slot` on arrival, then the `din` of the EDGE. -/
  | uopShiftDin
  /-- `bit_slot` on arrival, then the `dout` of the EDGE. -/
  | uopShiftDout
  /-- `bit_slot` on arrival, then the `pos` of the EDGE. -/
  | uopSync
  /-- An event record (`REC`, R74). -/
  | record
deriving DecidableEq, Repr

/-- A word at the port where it is matched. -/
structure Code where
  port : Port
  bits : BitString
deriving DecidableEq, Repr

/-- Why a word is rejected. None of these is a word that the spec's formats produce. -/
inductive DecodeError where
  /-- Fewer bits than the `op`, `cat`, opcode or `bit_slot` selector of the format has. -/
  | noSelector
  /-- The fields after the selector are not those of the format (R71 to R76, R74). -/
  | wrongFields
  /-- A data-in byte that is not in the Command Table: no command (R83, R111). -/
  | noCommand
  /-- The micro-operation is not selected at this `bit_slot` (R134). -/
  | notSelected
  /-- A `cat` of 5 to 7: never produced (R78, R85). -/
  | unusedCategory
  /-- A SYNC record whose span is not empty or whose value is not 0: never produced (R144). -/
  | malformedSync
deriving DecidableEq, Repr

/-- The fields that follow the `op` of an input transaction (R70 to R76). The one field of open width stands last, so
its width is what is left of the word. A reserved `op` is accepted whatever follows it: the transaction is ignored (R85). -/
def decodeTxn : BitString → Except DecodeError Instr
  | false :: false :: false :: fields =>
    match fields with
    | [hasClk, hasDin, hasDout, hasMsel] => .ok (.sessionStart ⟨hasClk, hasDin, hasDout, hasMsel⟩)
    | _ => .error .wrongFields
  | false :: false :: true :: rate => .ok (.samplerate (ofBits rate))
  | false :: true :: false :: fields =>
    match fields with
    | clk :: din :: dout :: msel :: pos => .ok (.sample clk din dout msel (ofBits pos))
    | _ => .error .wrongFields
  | false :: true :: true :: fields =>
    match fields with
    | din :: dout :: pos => .ok (.edge din dout (ofBits pos))
    | _ => .error .wrongFields
  | true :: false :: false :: fields =>
    match fields with
    | [] => .ok .endOfStream
    | _ => .error .wrongFields
  | true :: false :: true :: _ => .ok .reservedOp5
  | true :: true :: low :: _ => .ok (.reservedOp6_7 low)
  | _ => .error .noSelector

/-- A data-in byte, all 8 bits matched against the Command Table (R82). -/
def decodeCmd8 (bits : BitString) : Except DecodeError Instr :=
  if bits.length < 8 then .error .noSelector
  else match cmdRom (BitVec.ofNat 8 (ofBits (bits.take 8))) with
    | some c => .ok (c.toInstr (ofBits (bits.drop 8)))
    | none => .error .noCommand

/-- FRAME_START is selected by `bit_slot` 0000 (R121, R134). -/
def decodeFrameStart : BitString → Except DecodeError Instr
  | false :: false :: false :: false :: pos => .ok (.frameStart (ofBits pos))
  | _ :: _ :: _ :: _ :: _ => .error .notSelected
  | _ => .error .noSelector

/-- The data-in half of SHIFT is selected by `bit_slot` 0sss; sss is the register's own content (R123, R134). -/
def decodeShiftDin : BitString → Except DecodeError Instr
  | false :: _ :: _ :: _ :: [din] => .ok (.shiftDin din)
  | false :: _ :: _ :: _ :: _ => .error .wrongFields
  | true :: _ :: _ :: _ :: _ => .error .notSelected
  | _ => .error .noSelector

/-- The data-out half of SHIFT is selected by `bit_slot` 0sss; sss is the register's own content (R124, R134). -/
def decodeShiftDout : BitString → Except DecodeError Instr
  | false :: _ :: _ :: _ :: [dout] => .ok (.shiftDout dout)
  | false :: _ :: _ :: _ :: _ => .error .wrongFields
  | true :: _ :: _ :: _ :: _ => .error .notSelected
  | _ => .error .noSelector

/-- SYNC is selected by `bit_slot` 1000 (R125, R134). -/
def decodeSync : BitString → Except DecodeError Instr
  | true :: false :: false :: false :: pos => .ok (.sync (ofBits pos))
  | _ :: _ :: _ :: _ :: _ => .error .notSelected
  | _ => .error .noSelector

/-- The `start`, `end`, `value` fields of a record, from the bits after `cat` (R74): two positions of one width and a
byte, so the width of a position is half of what the byte leaves. -/
def recordFields (bits : BitString) : Except DecodeError (Pos × Pos × Byte) :=
  if bits.length < 8 ∨ bits.length % 2 ≠ 0 then .error .wrongFields
  else
    let w := (bits.length - 8) / 2
    .ok (ofBits (bits.take w), ofBits ((bits.drop w).take w), BitVec.ofNat 8 (ofBits (bits.drop (w + w))))

/-- A SYNC record has `start` = `end` and `value` = 0 (R144). -/
def syncRecord (f : Pos × Pos × Byte) : Except DecodeError Instr :=
  if f.1 = f.2.1 ∧ f.2.2 = 0 then .ok (.recSync f.2.1) else .error .malformedSync

/-- An event record, selected by `cat` (R74, R78). The reserved category has no fields of its own (R84). -/
def decodeRec : BitString → Except DecodeError Instr
  | false :: false :: false :: fields =>
    (recordFields fields).map fun f => .recDataIn f.1 f.2.1 f.2.2
  | false :: false :: true :: fields =>
    (recordFields fields).map fun f => .recDataOut f.1 f.2.1 f.2.2
  | false :: true :: false :: fields =>
    (recordFields fields).map fun f => .recCommand f.1 f.2.1 f.2.2
  | false :: true :: true :: fields => (recordFields fields).bind syncRecord
  | true :: false :: false :: _ => .ok .recWarning
  | true :: _ :: _ :: _ => .error .unusedCategory
  | _ => .error .noSelector

/-- The operation a word selects at its port, or why none. -/
def decode (c : Code) : Except DecodeError Instr :=
  match c.port with
  | .cmd8 => decodeCmd8 c.bits
  | .txn => decodeTxn c.bits
  | .uopFrameStart => decodeFrameStart c.bits
  | .uopShiftDin => decodeShiftDin c.bits
  | .uopShiftDout => decodeShiftDout c.bits
  | .uopSync => decodeSync c.bits
  | .record => decodeRec c.bits

/-! ### The encoder -/

/-- The data-in byte of a command, then the sync edge's position (R82). -/
def cmd8Code (w : Widths) (opcode : Byte) (pos : Pos) : Code :=
  ⟨.cmd8, byteBits opcode ++ toBits w.posW pos⟩

/-- A record `cat`, `start`, `end`, `value` (R74). -/
def recCode (w : Widths) (cat : Nat) (start stop : Pos) (value : Byte) : Code :=
  ⟨.record, toBits 3 cat ++ (toBits w.posW start ++ (toBits w.posW stop ++ byteBits value))⟩

/-- The words of a well-formed operation at given widths, written from the formats R71 to R76, the opcodes R82, the
slots R77 and the record format R74 with the categories R78. A SHIFT's sss is written 000. -/
def encode (w : Widths) : Instr → Code
  | .setOffsetL pos => cmd8Code w 0x40 pos
  | .setOffsetH pos => cmd8Code w 0x41 pos
  | .setData pos => cmd8Code w 0x42 pos
  | .getOffset pos => cmd8Code w 0x43 pos
  | .readFlash pos => cmd8Code w 0x44 pos
  | .ping pos => cmd8Code w 0x49 pos
  | .readCustom pos => cmd8Code w 0x4A pos
  | .setXpage pos => cmd8Code w 0x4C pos
  | .writeFlash pos => cmd8Code w 0x6E pos
  | .writeCustom pos => cmd8Code w 0xA5 pos
  | .sessionStart cfg => ⟨.txn, toBits 3 0 ++ [cfg.hasClk, cfg.hasDin, cfg.hasDout, cfg.hasMsel]⟩
  | .samplerate rate => ⟨.txn, toBits 3 1 ++ toBits w.rateW rate⟩
  | .sample clk din dout msel pos => ⟨.txn, toBits 3 2 ++ (clk :: din :: dout :: msel :: toBits w.posW pos)⟩
  | .edge din dout pos => ⟨.txn, toBits 3 3 ++ (din :: dout :: toBits w.posW pos)⟩
  | .endOfStream => ⟨.txn, toBits 3 4⟩
  | .reservedOp5 => ⟨.txn, toBits 3 5⟩
  | .reservedOp6_7 low => ⟨.txn, toBits 3 (6 + low.toNat)⟩
  | .frameStart pos => ⟨.uopFrameStart, toBits 4 0 ++ toBits w.posW pos⟩
  | .shiftDin din => ⟨.uopShiftDin, toBits 4 0 ++ [din]⟩
  | .shiftDout dout => ⟨.uopShiftDout, toBits 4 0 ++ [dout]⟩
  | .sync pos => ⟨.uopSync, toBits 4 8 ++ toBits w.posW pos⟩
  | .recDataIn start stop value => recCode w 0 start stop value
  | .recCommand start stop value => recCode w 2 start stop value
  | .recDataOut start stop value => recCode w 1 start stop value
  | .recSync stop => recCode w 3 stop stop 0
  | .recWarning => ⟨.record, toBits 3 4⟩

/-! ### The opcode table's rows and its numbering of a word -/

/-- The four kinds of rows of `opcode_table.json`. -/
inductive Format where
  | cmd8
  | txn
  | uop
  | record
deriving DecidableEq, Repr

/-- The format of the rows matched at a port. -/
def Port.format : Port → Format
  | .cmd8 => .cmd8
  | .txn => .txn
  | .uopFrameStart => .uop
  | .uopShiftDin => .uop
  | .uopShiftDout => .uop
  | .uopSync => .uop
  | .record => .record

/-- The width of the selector a format's `match` and `mask` apply to: the data-in byte, `op`, `bit_slot`, `cat`. -/
def Format.selectorWidth : Format → Nat
  | .cmd8 => 8
  | .txn => 3
  | .uop => 4
  | .record => 3

/-- A row of the opcode table: its mnemonic, its format and its match under a mask. -/
structure OpRow where
  mnemonic : String
  format : Format
  value : Nat
  mask : Nat
deriving DecidableEq, Repr

/-- The 26 rows of `opcode_table.json`, in the table's order. -/
def opRows : List OpRow :=
  [ ⟨"SET_OFFSET_L", .cmd8, 0x40, 0xFF⟩, ⟨"SET_OFFSET_H", .cmd8, 0x41, 0xFF⟩, ⟨"SET_DATA", .cmd8, 0x42, 0xFF⟩,
    ⟨"GET_OFFSET", .cmd8, 0x43, 0xFF⟩, ⟨"READ_FLASH", .cmd8, 0x44, 0xFF⟩, ⟨"PING", .cmd8, 0x49, 0xFF⟩,
    ⟨"READ_CUSTOM", .cmd8, 0x4A, 0xFF⟩, ⟨"SET_XPAGE", .cmd8, 0x4C, 0xFF⟩, ⟨"WRITE_FLASH", .cmd8, 0x6E, 0xFF⟩,
    ⟨"WRITE_CUSTOM", .cmd8, 0xA5, 0xFF⟩ ] ++
  [ ⟨"SESSION_START", .txn, 0x0, 0x7⟩, ⟨"SAMPLERATE", .txn, 0x1, 0x7⟩, ⟨"SAMPLE", .txn, 0x2, 0x7⟩,
    ⟨"EDGE", .txn, 0x3, 0x7⟩, ⟨"END_OF_STREAM", .txn, 0x4, 0x7⟩, ⟨"RESERVED_OP5", .txn, 0x5, 0x7⟩,
    ⟨"RESERVED_OP6_7", .txn, 0x6, 0x6⟩ ] ++
  [ ⟨"FRAME_START", .uop, 0x0, 0xF⟩, ⟨"SHIFT.DIN", .uop, 0x0, 0x8⟩, ⟨"SHIFT.DOUT", .uop, 0x0, 0x8⟩,
    ⟨"SYNC", .uop, 0x8, 0xF⟩ ] ++
  [ ⟨"REC.DATA_IN", .record, 0x0, 0x7⟩, ⟨"REC.COMMAND", .record, 0x2, 0x7⟩, ⟨"REC.DATA_OUT", .record, 0x1, 0x7⟩,
    ⟨"REC.SYNC", .record, 0x3, 0x7⟩, ⟨"REC.WARNING", .record, 0x4, 0x7⟩ ]

/-- A row matches the selector at the head of a word (the table's `match` and `mask`). -/
def OpRow.matches (r : OpRow) (c : Code) : Bool :=
  c.port.format == r.format
    && Nat.land (ofBits (c.bits.take r.format.selectorWidth)) r.mask == r.value

/-- The row of an operation, by the table's mnemonic. -/
def Instr.mnemonic : Instr → String
  | .setOffsetL _ => "SET_OFFSET_L"
  | .setOffsetH _ => "SET_OFFSET_H"
  | .setData _ => "SET_DATA"
  | .getOffset _ => "GET_OFFSET"
  | .readFlash _ => "READ_FLASH"
  | .ping _ => "PING"
  | .readCustom _ => "READ_CUSTOM"
  | .setXpage _ => "SET_XPAGE"
  | .writeFlash _ => "WRITE_FLASH"
  | .writeCustom _ => "WRITE_CUSTOM"
  | .sessionStart _ => "SESSION_START"
  | .samplerate _ => "SAMPLERATE"
  | .sample _ _ _ _ _ => "SAMPLE"
  | .edge _ _ _ => "EDGE"
  | .endOfStream => "END_OF_STREAM"
  | .reservedOp5 => "RESERVED_OP5"
  | .reservedOp6_7 _ => "RESERVED_OP6_7"
  | .frameStart _ => "FRAME_START"
  | .shiftDin _ => "SHIFT.DIN"
  | .shiftDout _ => "SHIFT.DOUT"
  | .sync _ => "SYNC"
  | .recDataIn _ _ _ => "REC.DATA_IN"
  | .recCommand _ _ _ => "REC.COMMAND"
  | .recDataOut _ _ _ => "REC.DATA_OUT"
  | .recSync _ => "REC.SYNC"
  | .recWarning => "REC.WARNING"

/-- The fields of zeros that follow an `op` in the shortest word of its format (R71 to R76, one-bit open field). -/
def zeroFields : Nat → BitString
  | 0 => [false, false, false, false]
  | 1 => [false]
  | 2 => [false, false, false, false, false]
  | 3 => [false, false, false]
  | _ => []

/-- The word the opcode table writes as the number `w` of `nbits` bits, with its operands zero. The number does not
say the row's `format`, and 0 to 4 stand in several formats: it is read as a transaction's `op` if below 8, as the
`bit_slot` of SYNC if it is 8, and else as a data-in byte (log entry 9). -/
def tableCode (nbits w : Nat) : Option Code :=
  if 2 ^ nbits ≤ w then none
  else if w < 8 then some ⟨.txn, toBits 3 w ++ zeroFields w⟩
  else if w = 8 then some ⟨.uopSync, toBits 4 w ++ [false]⟩
  else if w < 256 then some ⟨.cmd8, toBits 8 w ++ [false]⟩
  else none

/-- The operation the decoder reads from a word numbered as `opcode_table.json` numbers it, its operands zero. -/
def decodeTableWord (nbits w : Nat) : Option Instr :=
  match tableCode nbits w with
  | some c => (decode c).toOption
  | none => none

end Sys2Proof
end

