-- ==== Sys2Proof/Machine/State.lean ====
section
/-! DEFINITION. The state of the block: the eleven registers of `10_state.md` section 1, the two streams at its
boundary and the key of the free value; the reasons a step can stop; the state at power-on. -/

namespace Sys2Proof.Machine

/-- Whether a session is running (R33, D7). The code 3 is unrepresentable (R85). -/
inductive Phase where
  /-- OFF = 0: no session. -/
  | off
  /-- RUN = 1: decoding. -/
  | run
  /-- FAULT = 2: aborted by a configuration error, sticky (R202). -/
  | fault
deriving DecidableEq, Repr

/-- An event record (R74). Its display strings are a function of `cat` and `value` (`Machine/Display.lean`). -/
structure Record where
  cat : Category
  /-- The `start` field: the first sample index of the span. -/
  start : Pos
  /-- The `end` field: the sample index after the span. -/
  stop : Pos
  value : Byte
deriving DecidableEq, Repr

/-- The state. A register the spec can leave at `none` is an option (R21). -/
structure State where
  /-- `phase` (R33). -/
  phase : Phase
  /-- `fault_cause`: bit 0 clock missing, bit 1 data-in missing (R33, R191). -/
  faultCause : BitVec 2
  /-- `has_dout`: the data-out wire is configured (R31). -/
  hasDout : Level
  /-- `has_msel`: the mode-select wire is configured; read by nothing (R32). -/
  hasMsel : Level
  /-- `bit_slot`: the data bits of the current frame consumed so far (R28). -/
  bitSlot : Slot
  /-- `din_acc`: the data-in byte in progress (R22). -/
  dinAcc : Byte
  /-- `dout_acc`: the data-out byte in progress (R23). -/
  doutAcc : Byte
  /-- `start_pos`: the position of the frame's first edge (R24). -/
  startPos : Option Pos
  /-- `last_pos`: the position of the latest edge; read by nothing (R39). -/
  lastPos : Option Pos
  /-- `samplerate`: stored, read by nothing (R37). -/
  samplerate : Option Rate
  /-- `prev_clk`: the clock level of the previous SAMPLE of the session (R40, R41). -/
  prevClk : Option Level
  /-- The transactions issued by the sample source and not yet taken, oldest first (R8, log entry 2). -/
  input : List BitString
  /-- The records the sink has received, oldest first (R8, R62, log entry 3). -/
  output : List Record
  /-- The MODEL's own: initialisations of the session registers so far, the key of the free value that an unwritten
  `start_pos` reads as (U5, log entry 4). -/
  initCount : Nat
deriving DecidableEq, Repr

/-- Why the machine would stop with a fault: never. The one exception of the block, the configuration error, is a
next state in phase FAULT (R190, R200), and no behaviour of the block is treated as stuck (U7 to U16). -/
inductive Fault
deriving DecidableEq, Repr

/-- Why a step has no meaning. -/
inductive Refusal where
  /-- Raised by an arm of `exec` whose instruction has no meaning yet. Safe. No arm raises it. -/
  | notModelled (mnemonic : String)
  /-- Raised by `step` when the next word of the input is no transaction of R70 to R76. Safe (log entry 7). -/
  | malformedTransaction (why : DecodeError)
deriving DecidableEq, Repr

/-- Power-on (R221). The input is empty and nothing has been emitted (log entries 2 and 3). -/
def State.reset : State where
  phase := .off
  faultCause := 0
  hasDout := false
  hasMsel := false
  bitSlot := 0
  dinAcc := 0
  doutAcc := 0
  startPos := none
  lastPos := none
  samplerate := none
  prevClk := none
  input := []
  output := []
  initCount := 0

end Sys2Proof.Machine
end

