-- ==== Sys2Proof/Machine/Flags.lean ====
section
/-! DEFINITION. The status flags: the phase codes, the cause mask of the configuration error, the fault port, the
wire roles (`10_state.md` sections 4 and 5, `60_exceptions.md` section 1). -/

namespace Sys2Proof.Machine

/-- The phase register's code (R33, D7). -/
def Phase.code : Phase → BitVec 2
  | .off => 0
  | .run => 1
  | .fault => 2

/-- The cause mask of SESSION_START: bit 1 is 1 when data-in is missing, bit 0 when the clock is (R160, R191). -/
def causeMask (cfg : Capabilities) : BitVec 2 :=
  BitVec.ofBool (!cfg.hasDin) ++ BitVec.ofBool (!cfg.hasClk)

/-- The fault port: `fault` and `fault_cause`, driven continuously from the state (R33). -/
def State.faultPort (s : State) : Level × BitVec 2 :=
  (s.phase == .fault, s.faultCause)

/-- The capability query "is wire N configured?" for wire roles 0 to 3 (R34, D25). -/
def wireConfigured (cfg : Capabilities) : Fin 4 → Level
  | 0 => cfg.hasClk
  | 1 => cfg.hasDin
  | 2 => cfg.hasDout
  | 3 => cfg.hasMsel

end Sys2Proof.Machine
end

