-- ==== Sys2Proof/Machine/Operands.lean ====
section
/-! DEFINITION. Operand forms: how a level enters an accumulator, how the data-out level is gated, when a pair of
clock levels is a falling edge, what an unwritten position reads as (`30_encoding.md` section 4, `43_decode_loop.md`
section 3). -/

namespace Sys2Proof.Machine

/-- Data-in, most significant bit first: the low 8 bits of the accumulator with the level after it (R79, R123). -/
def pushMsbFirst (acc : Byte) (level : Level) : Byte :=
  (BitVec.concat acc level).extractLsb' 0 8

/-- Data-out, least significant bit first: the level ORed in at the bit numbered by the slot (R80, R124). -/
def orAtSlot (acc : Byte) (level : Level) (slot : Slot) : Byte :=
  acc ||| ((BitVec.ofBool level).setWidth 8 <<< slot.val)

/-- The data-out level is a constant 0 when that wire is not configured (R23, R124). -/
def gateDout (dout hasDout : Level) : Level := dout && hasDout

/-- A falling transition of the clock wire: the previous level of the session was 1 and this one is 0; never with
`prev_clk` at `none` (R170, R171). -/
def clockFalls (prev : Option Level) (clk : Level) : Bool :=
  prev == some true && clk == false

/-- What the sync edge reads from `start_pos` (R125): the register, or while it holds `none` the free value of U5. -/
def State.startPosValue (s : State) : Pos :=
  s.startPos.getD (Config.unwrittenPos s.initCount)

end Sys2Proof.Machine
end

