-- ==== Sys2Proof/Machine/Ops.lean ====
section
/-! DEFINITION. The operations the meanings share: writes of registers, the emission of records, the micro-operations,
the edge, the initialisation of a session and the taking of the configuration error. The block has no memory, so no
operation reads or writes one (`10_state.md` rule R38). -/

namespace Sys2Proof.Machine

/-! ### The output stream -/

/-- `emit(cat, start, end, value)`: append one record to the output stream (R10, R74). -/
def State.emit (s : State) (cat : Category) (start stop : Pos) (value : Byte) : State :=
  { s with output := s.output ++ [⟨cat, start, stop, value⟩] }

/-- The DATA_IN record, always (R141). -/
def emitDataIn (start stop : Pos) (value : Byte) (s : State) : State :=
  s.emit .dataIn start stop value

/-- The COMMAND record, when the byte is in the Command Table (R142). -/
def emitCommand (start stop : Pos) (value : Byte) (s : State) : State :=
  if cmdRom value ≠ none then s.emit .command start stop value else s

/-- The DATA_OUT record, when the data-out wire is configured (R143). -/
def emitDataOut (start stop : Pos) (value : Byte) (gate : Level) (s : State) : State :=
  if gate = true then s.emit .dataOut start stop value else s

/-- The SYNC record, always: zero width, value 0 (R144). -/
def emitSync (stop : Pos) (s : State) : State :=
  s.emit .sync stop stop 0

/-- `EmitFrame`: the burst of a finalised frame, in its fixed order (R140). -/
def emitFrame (start stop : Pos) (din dout : Byte) (gate : Level) (s : State) : State :=
  emitSync stop (emitDataOut start stop dout gate (emitCommand start stop din (emitDataIn start stop din s)))

/-! ### The micro-operations of an edge -/

/-- FRAME_START (R121). -/
def startFrame (pos : Pos) (s : State) : State :=
  { s with startPos := some pos, dinAcc := 0, doutAcc := 0 }

/-- SHIFT, data-in half (R123). -/
def shiftDataIn (din : Level) (s : State) : State :=
  { s with dinAcc := pushMsbFirst s.dinAcc din }

/-- SHIFT, data-out half, and the increment of `bit_slot`, once for both halves (R124). -/
def shiftDataOut (dout : Level) (s : State) : State :=
  { s with doutAcc := orAtSlot s.doutAcc (gateDout dout s.hasDout) s.bitSlot, bitSlot := s.bitSlot + 1 }

/-- What the sync edge writes after the burst (R125, R27). -/
def closeFrame (s : State) : State :=
  { s with bitSlot := 0, dinAcc := 0, doutAcc := 0 }

/-- SYNC: the burst, from the registers as the edge found them, then the clears (R125). -/
def syncFrame (pos : Pos) (s : State) : State :=
  closeFrame (emitFrame s.startPosValue pos s.dinAcc s.doutAcc s.hasDout s)

/-- `last_pos <- pos` (R39). -/
def setLastPos (pos : Pos) (s : State) : State :=
  { s with lastPos := some pos }

/-- EDGE, its statements in order (R120). The data edge and the sync edge are exclusive, decided on the `bit_slot` the
edge found (R126). -/
def edgeStep (din dout : Level) (pos : Pos) (s : State) : State :=
  if s.phase = .run then
    let s1 := setLastPos pos s
    let s2 := if s1.bitSlot = 0 then startFrame pos s1 else s1
    if s2.bitSlot < 8 then shiftDataOut dout (shiftDataIn din s2) else syncFrame pos s2
  else s

/-! ### The classification of a finalised frame -/

/-- The command of a finalised frame: in phase RUN, at the sync edge, with the command's opcode in `din_acc`, its
COMMAND record is emitted (R101 to R110); otherwise the byte is not this command (R82, R111). -/
def classifyAs (c : Command) (pos : Pos) (s : State) : State :=
  if s.phase = .run ∧ s.bitSlot = 8 ∧ s.dinAcc = c.opcode then
    s.emit .command s.startPosValue pos c.opcode
  else s

/-! ### The session registers, the configuration error -/

/-- The registers that a session start clears on both of its paths (R160, R200). -/
def clearSession (s : State) : State :=
  { s with
    bitSlot := 0, dinAcc := 0, doutAcc := 0, startPos := none, lastPos := none, prevClk := none,
    initCount := s.initCount + 1 }

/-- TAKING THE EXCEPTION, `raise ConfigError(cause)`: phase FAULT, the cause recorded, the flags and the session
registers cleared, nothing saved and no record (R200). There is no return from it: only SESSION_START leaves the
phase (R203). -/
def raiseConfigError (cause : BitVec 2) (s : State) : State :=
  { clearSession s with phase := .fault, faultCause := cause, hasDout := false, hasMsel := false }

/-- A successful session start, the only way out of phase FAULT (R160, R162, R163, R203). -/
def startSession (cfg : Capabilities) (s : State) : State :=
  { clearSession s with phase := .run, faultCause := 0, hasDout := cfg.hasDout, hasMsel := cfg.hasMsel }

/-- `prev_clk <- clk` (R171). -/
def setPrevClk (clk : Level) (s : State) : State :=
  { s with prevClk := some clk }

/-- `samplerate <- rate` (R165). -/
def setSamplerate (rate : Rate) (s : State) : State :=
  { s with samplerate := some rate }

/-- `phase <- OFF` (R175). -/
def endSession (s : State) : State :=
  { s with phase := .off }

end Sys2Proof.Machine
end

