-- ==== Sys2Proof/Machine/Assembler.lean ====
section
/-! DEFINITION. The meanings of the micro-operations of EDGE (`41_byte_assembler.md`), each under the condition its
rule states; a micro-operation that is not selected does nothing (R134). -/

namespace Sys2Proof.Machine

/-- FRAME_START: in phase RUN at slot 0 (R121). -/
def execFrameStart (pos : Pos) (s : State) : Host.Outcome State Fault Refusal :=
  .next (if s.phase = .run ∧ s.bitSlot = 0 then startFrame pos s else s)

/-- SHIFT, data-in half: in phase RUN at a slot below 8 (R123). -/
def execShiftDin (din : Level) (s : State) : Host.Outcome State Fault Refusal :=
  .next (if s.phase = .run ∧ s.bitSlot < 8 then shiftDataIn din s else s)

/-- SHIFT, data-out half: in phase RUN at a slot below 8 (R124). -/
def execShiftDout (dout : Level) (s : State) : Host.Outcome State Fault Refusal :=
  .next (if s.phase = .run ∧ s.bitSlot < 8 then shiftDataOut dout s else s)

/-- SYNC: in phase RUN at slot 8 (R125). -/
def execSync (pos : Pos) (s : State) : Host.Outcome State Fault Refusal :=
  .next (if s.phase = .run ∧ s.bitSlot = 8 then syncFrame pos s else s)

end Sys2Proof.Machine
end

