-- ==== Sys2Proof/Machine/Commands.lean ====
section
/-! DEFINITION. The meanings of the ten commands (`40_command_table.md` section 2): the classification of the frame
whose sync edge is at `pos`. The block does not execute a command; it labels the byte (R112, N9). -/

namespace Sys2Proof.Machine

/-- SET_OFFSET_L (R101). -/
def execSetOffsetL (pos : Pos) (s : State) : Host.Outcome State Fault Refusal :=
  .next (classifyAs .setOffsetL pos s)

/-- SET_OFFSET_H (R102). -/
def execSetOffsetH (pos : Pos) (s : State) : Host.Outcome State Fault Refusal :=
  .next (classifyAs .setOffsetH pos s)

/-- SET_DATA (R103). -/
def execSetData (pos : Pos) (s : State) : Host.Outcome State Fault Refusal :=
  .next (classifyAs .setData pos s)

/-- GET_OFFSET (R104). -/
def execGetOffset (pos : Pos) (s : State) : Host.Outcome State Fault Refusal :=
  .next (classifyAs .getOffset pos s)

/-- READ_FLASH (R105). -/
def execReadFlash (pos : Pos) (s : State) : Host.Outcome State Fault Refusal :=
  .next (classifyAs .readFlash pos s)

/-- PING (R106). -/
def execPing (pos : Pos) (s : State) : Host.Outcome State Fault Refusal :=
  .next (classifyAs .ping pos s)

/-- READ_CUSTOM (R107). -/
def execReadCustom (pos : Pos) (s : State) : Host.Outcome State Fault Refusal :=
  .next (classifyAs .readCustom pos s)

/-- SET_XPAGE (R108). -/
def execSetXpage (pos : Pos) (s : State) : Host.Outcome State Fault Refusal :=
  .next (classifyAs .setXpage pos s)

/-- WRITE_FLASH (R109). -/
def execWriteFlash (pos : Pos) (s : State) : Host.Outcome State Fault Refusal :=
  .next (classifyAs .writeFlash pos s)

/-- WRITE_CUSTOM (R110). -/
def execWriteCustom (pos : Pos) (s : State) : Host.Outcome State Fault Refusal :=
  .next (classifyAs .writeCustom pos s)

end Sys2Proof.Machine
end

