-- ==== Sys2Proof/Machine/Emitter.lean ====
section
/-! DEFINITION. The meanings of the record rows: the emission of each record under its rule's condition
(`42_event_emitter.md` section 1). The emitter cannot fail (R149). -/

namespace Sys2Proof.Machine

/-- The DATA_IN record (R141). -/
def execRecDataIn (start stop : Pos) (value : Byte) (s : State) : Host.Outcome State Fault Refusal :=
  .next (emitDataIn start stop value s)

/-- The COMMAND record (R142). -/
def execRecCommand (start stop : Pos) (value : Byte) (s : State) : Host.Outcome State Fault Refusal :=
  .next (emitCommand start stop value s)

/-- The DATA_OUT record, gated by `has_dout` (R143). -/
def execRecDataOut (start stop : Pos) (value : Byte) (s : State) : Host.Outcome State Fault Refusal :=
  .next (emitDataOut start stop value s.hasDout s)

/-- The SYNC record (R144). -/
def execRecSync (stop : Pos) (s : State) : Host.Outcome State Fault Refusal :=
  .next (emitSync stop s)

/-- The WARNING category: zero records from the core, ever (R84, R201; log entry 8). -/
def execRecWarning (s : State) : Host.Outcome State Fault Refusal :=
  .next s

end Sys2Proof.Machine
end

