-- ==== Sys2Proof/Machine/Session.lean ====
section
/-! DEFINITION. The meanings of the input transactions (`43_decode_loop.md` sections 1 to 5, `41_byte_assembler.md`
section 1). Each is total: always a next state (R178). -/

namespace Sys2Proof.Machine

/-- SESSION_START, in every phase: the check of the required wires, then the error or the start (R160 to R163). -/
def execSessionStart (cfg : Capabilities) (s : State) : Host.Outcome State Fault Refusal :=
  .next (if causeMask cfg ≠ 0 then raiseConfigError (causeMask cfg) s else startSession cfg s)

/-- SAMPLERATE, in every phase (R165). -/
def execSamplerate (rate : Rate) (s : State) : Host.Outcome State Fault Refusal :=
  .next (setSamplerate rate s)

/-- SAMPLE: the edge detector (R171). The level of the mode-select wire is never read (R32). -/
def execSample (clk din dout : Level) (pos : Pos) (s : State) : Host.Outcome State Fault Refusal :=
  .next
    (if s.phase = .run then
      if clockFalls s.prevClk clk = true then edgeStep din dout pos (setPrevClk clk s) else setPrevClk clk s
    else s)

/-- EDGE (R120). -/
def execEdge (din dout : Level) (pos : Pos) (s : State) : Host.Outcome State Fault Refusal :=
  .next (edgeStep din dout pos s)

/-- END_OF_STREAM: phase RUN to OFF; a fault is not cleared, a frame in progress is dropped (R175). -/
def execEndOfStream (s : State) : Host.Outcome State Fault Refusal :=
  .next (if s.phase = .run then endSession s else s)

/-- The reserved `op` 5: ignored (R85). -/
def execReservedOp5 (s : State) : Host.Outcome State Fault Refusal :=
  .next s

/-- The reserved `op` 6 and 7: ignored (R85). -/
def execReservedOp6_7 (s : State) : Host.Outcome State Fault Refusal :=
  .next s

end Sys2Proof.Machine
end

