-- ==== Sys2Proof/Machine/Dispatch.lean ====
section
/-! DEFINITION. `exec`: one arm for each operation, one direct call of its meaning. -/

namespace Sys2Proof.Machine

/-- What an operation does in a state. -/
def exec (i : Instr) (s : State) : Host.Outcome State Fault Refusal :=
  match i with
  | .setOffsetL pos => Sys2Proof.Machine.execSetOffsetL pos s
  | .setOffsetH pos => Sys2Proof.Machine.execSetOffsetH pos s
  | .setData pos => Sys2Proof.Machine.execSetData pos s
  | .getOffset pos => Sys2Proof.Machine.execGetOffset pos s
  | .readFlash pos => Sys2Proof.Machine.execReadFlash pos s
  | .ping pos => Sys2Proof.Machine.execPing pos s
  | .readCustom pos => Sys2Proof.Machine.execReadCustom pos s
  | .setXpage pos => Sys2Proof.Machine.execSetXpage pos s
  | .writeFlash pos => Sys2Proof.Machine.execWriteFlash pos s
  | .writeCustom pos => Sys2Proof.Machine.execWriteCustom pos s
  | .sessionStart cfg => Sys2Proof.Machine.execSessionStart cfg s
  | .samplerate rate => Sys2Proof.Machine.execSamplerate rate s
  | .sample clk din dout _ pos => Sys2Proof.Machine.execSample clk din dout pos s
  | .edge din dout pos => Sys2Proof.Machine.execEdge din dout pos s
  | .endOfStream => Sys2Proof.Machine.execEndOfStream s
  | .reservedOp5 => Sys2Proof.Machine.execReservedOp5 s
  | .reservedOp6_7 _ => Sys2Proof.Machine.execReservedOp6_7 s
  | .frameStart pos => Sys2Proof.Machine.execFrameStart pos s
  | .shiftDin din => Sys2Proof.Machine.execShiftDin din s
  | .shiftDout dout => Sys2Proof.Machine.execShiftDout dout s
  | .sync pos => Sys2Proof.Machine.execSync pos s
  | .recDataIn start stop value => Sys2Proof.Machine.execRecDataIn start stop value s
  | .recCommand start stop value => Sys2Proof.Machine.execRecCommand start stop value s
  | .recDataOut start stop value => Sys2Proof.Machine.execRecDataOut start stop value s
  | .recSync stop => Sys2Proof.Machine.execRecSync stop s
  | .recWarning => Sys2Proof.Machine.execRecWarning s

end Sys2Proof.Machine
end

