-- ==== Sys2Proof/Machine/Fetch.lean ====
section
/-! DEFINITION. The input port: taking the next transaction, and placing a word so that the next step runs it. The
block fetches no instructions (`10_state.md` rule R28); what it takes are the transactions of the sample source. -/

namespace Sys2Proof.Machine

/-- The next transaction word and the state without it, or none while the sample source has issued nothing more
(R174). Each is consumed exactly once (R59, R233). -/
def State.takeInput (s : State) : Option (BitString × State) :=
  match s.input with
  | [] => none
  | word :: rest => some (word, { s with input := rest })

/-- What the source issues at one moment joins the transactions not yet taken, as the newest (R8, R59). -/
def State.feed (s : State) : Option BitString → State
  | none => s
  | some word => { s with input := s.input ++ [word] }

/-- The word of an `EDGE` with both levels 0 at position 0 (R75). -/
def edgeWord : BitString := [false, true, true, false, false, false]

/-- Issue a transaction word next. -/
def State.issue (s : State) (word : BitString) : State :=
  { s with input := word :: s.input }

/-- A frame about to be finalised: phase RUN, slot 8, a frame start, and the sync edge issued next (R125). -/
def State.awaitSync (s : State) : State :=
  { s with phase := .run, bitSlot := 8, startPos := some (s.startPos.getD 0), input := edgeWord :: s.input }

/-- Place a word so that the very next step runs what it encodes (log entry 9). A transaction is issued at the input.
A data-in byte is put into `din_acc` of a frame whose sync edge comes next, and the `bit_slot` of SYNC is likewise
put before a sync edge, because the block matches these on its own registers (R82, R134). -/
def State.placeTableWord (s : State) (nbits w : Nat) : State :=
  match tableCode nbits w with
  | some ⟨.txn, word⟩ => s.issue word
  | some ⟨.cmd8, _⟩ => { s.awaitSync with dinAcc := BitVec.ofNat 8 w }
  | some ⟨.uopSync, _⟩ => s.awaitSync
  | _ => s.issue (toBits nbits w)

end Sys2Proof.Machine
end

