-- ==== Sys2Proof/Machine/Step.lean ====
section
/-! DEFINITION. One step of the block: one input transaction, decoded and executed (`43_decode_loop.md` rule R178). -/

namespace Sys2Proof.Machine

/-- One step: take the next transaction, decode it, execute it. With nothing issued the block waits and its state does
not change (R174, log entry 5); a word that is no transaction is refused (log entry 7). -/
def step (s : State) : Host.Outcome State Fault Refusal :=
  match s.takeInput with
  | none => .next s
  | some (word, s') =>
    match decode ⟨.txn, word⟩ with
    | .ok i => exec i s'
    | .error why => .refused (.malformedTransaction why)

/-- The state with the table's word placed where the next step takes it (log entry 9). -/
def State.withFetchWord (s : State) (nbits w : Nat) : State :=
  s.placeTableWord nbits w

end Sys2Proof.Machine
end

