-- ==== Sys2Proof/Machine/Display.lean ====
section
/-! DEFINITION. The display strings of a record, a pure function of its category and value (`30_encoding.md` section
7). The two spellings that the source gives by example only, `HEX2` and `ABBR`, are an argument (R92, U12), with the
spec's defaults. -/

namespace Sys2Proof.Machine

/-- The open spellings: a hexadecimal byte (D10) and a three-character abbreviation (D11). -/
structure DisplayRules where
  hex2 : Byte → String
  abbr : String → String

/-- A hexadecimal digit, upper case (R88). -/
def hexDigit (n : BitVec 4) : Char :=
  "0123456789ABCDEF".toList.getD n.toNat '0'

/-- `HEX2`: the digit of bits 7 to 4, then that of bits 3 to 0 (R88, D10). -/
def specHex2 (b : Byte) : String :=
  String.ofList [hexDigit (b.extractLsb' 4 4), hexDigit (b.extractLsb' 0 4)]

/-- `ABBR`: the first three characters of a name (R92, D11). -/
def specAbbr (name : String) : String :=
  String.ofList (name.toList.take 3)

/-- The spec's own choices for the open spellings (R88, R92; log entry 11). -/
def specRules : DisplayRules := ⟨specHex2, specAbbr⟩

/-- The strings of a command: full, bare, abbreviated (R91). -/
def displayCommand (r : DisplayRules) (value : Byte) (c : Command) : List String :=
  [c.name ++ " (0x" ++ r.hex2 value ++ ")", c.name, r.abbr c.name]

/-- `display(cat, value)`, most detailed first (R87 to R93); none where R91 leaves it undefined, for a COMMAND whose
value is not in the Command Table. -/
def display (r : DisplayRules) : Category → Byte → Option (List String)
  | .dataIn, value => some ["@" ++ r.hex2 value]
  | .dataOut, value => some ["@" ++ r.hex2 value]
  | .command, value => (cmdRom value).map (displayCommand r value)
  | .sync, _ => some [Config.syncLabel]
  | .warning, _ => some [Config.warningText]

end Sys2Proof.Machine
end

