-- ==== Sys2Proof/Machine/Source.lean ====
section
/-! DEFINITION. The sample source, the free input of the block (`00_scope.md` rule R8), and the run it makes, finite or
infinite (`43_decode_loop.md` rule R176). The source is an argument of a run, not a part of State, which is plain data. -/

namespace Sys2Proof.Machine

/-- A sample source: at each moment it issues one transaction word or nothing. Every function is one: a source that
never ceases makes an infinite run, one that issues nothing from some moment on a finite one (R8, R176). -/
abbrev Source := Nat → Option BitString

/-- The first `n` moments of a run: at each the source issues, then the block steps (R174, R178). The states and the
records of an infinite run are those of `run source n` for every `n` (log entry 2). -/
def run (source : Source) : Nat → State → Host.Outcome State Fault Refusal
  | 0, s => .next s
  | n + 1, s =>
    match run source n s with
    | .next t => step (t.feed (source n))
    | .fault r => .fault r
    | .refused r => .refused r

/-- Cancellation: from moment `n` on the source issues nothing, with or without an END_OF_STREAM before (R8, R176). -/
def Source.Ceases (source : Source) (n : Nat) : Prop := ∀ k, n ≤ k → source k = none

end Sys2Proof.Machine
end

