-- ==== Sys2Proof/Machine/Stimulus.lean ====
section
/-! DEFINITION. Sequences of operations and the stimulus notation: the pseudo-operations FRAME and CLOCKFALL
(`30_encoding.md` rule R95), and the edges that a sequence of samples contains (`43_decode_loop.md` rule R172). -/

namespace Sys2Proof.Machine

/-- Operations one after another, each complete before the next (R62), stopping at the first that has no next state. -/
def execAll : List Instr → State → Host.Outcome State Fault Refusal
  | [], s => .next s
  | i :: rest, s =>
    match exec i s with
    | .next s' => execAll rest s'
    | .fault r => .fault r
    | .refused r => .refused r

/-- The nine edges of a frame from the levels and positions of its eight data edges and its sync edge (R77). -/
def nineEdges (din dout : Fin 8 → Level) (pos : Fin 9 → Pos) (syncDin syncDout : Level) : List Instr :=
  [ .edge (din 0) (dout 0) (pos 0), .edge (din 1) (dout 1) (pos 1), .edge (din 2) (dout 2) (pos 2),
    .edge (din 3) (dout 3) (pos 3), .edge (din 4) (dout 4) (pos 4), .edge (din 5) (dout 5) (pos 5),
    .edge (din 6) (dout 6) (pos 6), .edge (din 7) (dout 7) (pos 7), .edge syncDin syncDout (pos 8) ]

/-- `FRAME in=II out=OO @p0 +s`: edge j has `din = II[8-j]` and `dout = OO[j-1]`, the sync edge has zeros (R95). -/
def frame (din dout : Byte) (p0 s : Pos) : List Instr :=
  nineEdges (fun j => din.getLsbD (7 - j.val)) (fun j => dout.getLsbD j.val) (fun j => p0 + j.val * s) false false

/-- `CLOCKFALL din dout @p`: a sample with the clock high at `p-1`, then one with it low at `p` (R95). At `p = 0` the spec
gives no `p-1`; DESIGN CHOICE: the first sample then has position 0 (log entry 16). -/
def clockFall (din dout : Level) (p : Pos) : List Instr :=
  [.sample true din dout false (p - 1), .sample false din dout false p]

/-- A raw sample: the four levels at a position (R12). -/
structure Sample where
  clk : Level
  din : Level
  dout : Level
  msel : Level
  pos : Pos
deriving DecidableEq, Repr

/-- The SAMPLE transaction of a raw sample (R73). -/
def Sample.toInstr (x : Sample) : Instr := .sample x.clk x.din x.dout x.msel x.pos

/-- The EDGEs at the falls of the clock: the samples with the clock 0 after a sample with the clock 1 (R170, R172). -/
def fallingEdges : Option Level → List Sample → List Instr
  | _, [] => []
  | prev, x :: rest =>
    if prev = some true ∧ x.clk = false then .edge x.din x.dout x.pos :: fallingEdges (some x.clk) rest
    else fallingEdges (some x.clk) rest

/-- The clock level after a sequence of samples. -/
def clockAfter : Option Level → List Sample → Option Level
  | prev, [] => prev
  | _, x :: rest => clockAfter (some x.clk) rest

/-- The five transactions and the reserved codes: what the sample source can issue (R70). -/
def isTransaction : Instr → Bool
  | .sessionStart _ | .samplerate _ | .sample _ _ _ _ _ | .edge _ _ _ | .endOfStream | .reservedOp5
  | .reservedOp6_7 _ => true
  | .setOffsetL _ | .setOffsetH _ | .setData _ | .getOffset _ | .readFlash _ | .ping _ | .readCustom _ | .setXpage _
  | .writeFlash _ | .writeCustom _ | .frameStart _ | .shiftDin _ | .shiftDout _ | .sync _ | .recDataIn _ _ _
  | .recCommand _ _ _ | .recDataOut _ _ _ | .recSync _ | .recWarning => false

end Sys2Proof.Machine
end

