-- ==== Sys2Proof/Safety.lean ====
section
/-! DEFINITION. What a good state is, in the terms the claims use: the safety predicate of `60_exceptions.md` rule
R202 and the invariant of the reachable states of `10_state.md` rule R43. -/

namespace Sys2Proof.Machine

/-- The safety predicate: no configuration error is standing (R202). -/
abbrev Safe (s : State) : Prop := s.phase ≠ .fault

/-- R43 (a) to (f) of a state in phase RUN. (a), that `bit_slot` is at most 8, is in the type `Slot`. -/
abbrev RunInv (s : State) : Prop :=
  s.dinAcc.toNat < 2 ^ s.bitSlot.val ∧ s.doutAcc.toNat < 2 ^ s.bitSlot.val ∧ (s.hasDout = false → s.doutAcc = 0) ∧
    (0 < s.bitSlot.val → s.startPos ≠ none ∧ s.lastPos ≠ none) ∧ s.faultCause = 0

/-- The invariant of the reachable states (R43), with the cause 0 in phase OFF too (R191). -/
abbrev ReachableInv (s : State) : Prop :=
  (s.phase = .run → RunInv s) ∧ (s.phase = .fault → s.faultCause ≠ 0) ∧ (s.phase = .off → s.faultCause = 0)

end Sys2Proof.Machine
end

