-- ==== Sys2Proof/Certificates/Slice0/Obligations.lean ====
section
/-! DEFINITION. The statements about the model, from the numbered rules of the spec. `OBLIGATIONS.json` says of each
which rules it formalises. Helper notions are written from the spec's own lists, not from the model's functions. -/

namespace Sys2Proof.Statements

open Sys2Proof.Machine

/-- The ten opcodes, as R111 lists them. -/
abbrev opcodes : List Byte := [0x40, 0x41, 0x42, 0x43, 0x44, 0x49, 0x4A, 0x4C, 0x6E, 0xA5]

/-- The burst of a finalised frame as R145 tabulates it: by whether the data-in byte is an opcode and by `has_dout`. -/
def burst (start stop : Pos) (din dout : Byte) (gate : Level) : List Record :=
  match decide (din ∈ opcodes), gate with
  | false, false => [⟨.dataIn, start, stop, din⟩, ⟨.sync, stop, stop, 0⟩]
  | true, false => [⟨.dataIn, start, stop, din⟩, ⟨.command, start, stop, din⟩, ⟨.sync, stop, stop, 0⟩]
  | false, true => [⟨.dataIn, start, stop, din⟩, ⟨.dataOut, start, stop, dout⟩, ⟨.sync, stop, stop, 0⟩]
  | true, true =>
    [⟨.dataIn, start, stop, din⟩, ⟨.command, start, stop, din⟩, ⟨.dataOut, start, stop, dout⟩, ⟨.sync, stop, stop, 0⟩]

/-- The COMMAND records of a list. -/
def commands (rs : List Record) : List Record := rs.filter fun r => r.cat = .command

/-- A sync edge is due: phase RUN, all eight data bits taken (R28). -/
def SyncDue (s : State) : Prop := s.phase = .run ∧ s.bitSlot = 8

/-- A data edge is due: phase RUN, fewer than eight data bits taken (R28). -/
def DataDue (s : State) : Prop := s.phase = .run ∧ s.bitSlot.val < 8

/-- A power-on machine after `START 1 1 g 0` (R94). -/
def started (g : Level) : Instr := .sessionStart ⟨true, true, g, false⟩

/-- The operations `is` run from power-on leave exactly these records in the output. -/
def emits (is : List Instr) (records : List Record) : Prop :=
  ∃ t, execAll is State.reset = .next t ∧ t.output = records

/-- The template of R101 to R110 for one command: the lookup and the name; the display strings; the classification by
itself and inside the burst of a finalised frame, for whatever frames went before; the worked example. -/
def CommandRule (toInstr : Pos → Instr) (opcode : Byte) (k : Fin 10) (name full abbr : String) : Prop :=
  (∃ c, cmdRom opcode = some c ∧ c.index = k ∧ c.name = name) ∧
  display specRules .command opcode = some [full, name, abbr] ∧
  (∀ s pos, SyncDue s → s.dinAcc = opcode →
    exec (toInstr pos) s =
      .next { s with output := s.output ++ [⟨.command, s.startPosValue, pos, opcode⟩] } ∧
    ∀ din dout, exec (.edge din dout pos) s =
      .next { s with
        bitSlot := 0, dinAcc := 0, doutAcc := 0, lastPos := some pos,
        output := s.output ++ ([⟨.dataIn, s.startPosValue, pos, opcode⟩, ⟨.command, s.startPosValue, pos, opcode⟩] ++
          (if s.hasDout = true then [⟨.dataOut, s.startPosValue, pos, s.doutAcc⟩] else []) ++
          [⟨.sync, pos, pos, 0⟩]) }) ∧
  emits (started false :: frame opcode 0 0 1) [⟨.dataIn, 0, 8, opcode⟩, ⟨.command, 0, 8, opcode⟩, ⟨.sync, 8, 8, 0⟩]

/-- The state with every position it holds mapped. -/
def mapPositions (f : Pos → Pos) (s : State) : State :=
  { s with
    startPos := s.startPos.map f
    lastPos := s.lastPos.map f
    output := s.output.map fun r => { r with start := f r.start, stop := f r.stop } }

/-- The states agree on every register of a session: all but `samplerate`, the streams and the free value's key. -/
def SameSession (s t : State) : Prop :=
  s.phase = t.phase ∧ s.faultCause = t.faultCause ∧ s.hasDout = t.hasDout ∧ s.hasMsel = t.hasMsel ∧
    s.bitSlot = t.bitSlot ∧ s.dinAcc = t.dinAcc ∧ s.doutAcc = t.doutAcc ∧ s.startPos = t.startPos ∧
    s.lastPos = t.lastPos ∧ s.prevClk = t.prevClk

/-- The source issues, word for word, the transactions `is`. -/
def Issues (source : Source) (is : Nat → Option Instr) : Prop :=
  ∀ n, (source n = none ∧ is n = none) ∨
    ∃ word i, source n = some word ∧ is n = some i ∧ decode ⟨.txn, word⟩ = .ok i

/-- A list of transactions that starts no session. -/
def NoStart (is : List Instr) : Prop :=
  ∀ i ∈ is, isTransaction i = true ∧ ∀ cfg, i ≠ .sessionStart cfg

end Sys2Proof.Statements

open Sys2Proof Sys2Proof.Machine Sys2Proof.Statements

/-! ### The commands -/

/-- R101 to R110, each whole: the lookup, the name, the strings, the COMMAND record by itself (that it can stand alone is
log entry 6) and in the burst, the example, and the corner cases the rules name (0x45, 0x48, 0x4B, 0x4D, 0x76 are no commands; a data-out byte of 0x40 is
not classified; 0xA5 on both wires is classified once). -/
def Obligations.EveryCommandLabelsItsFrame : Prop :=
  CommandRule .setOffsetL 0x40 0 "SET_OFFSET_L" "SET_OFFSET_L (0x40)" "SET" ∧
  CommandRule .setOffsetH 0x41 1 "SET_OFFSET_H" "SET_OFFSET_H (0x41)" "SET" ∧
  CommandRule .setData 0x42 2 "SET_DATA" "SET_DATA (0x42)" "SET" ∧
  CommandRule .getOffset 0x43 3 "GET_OFFSET" "GET_OFFSET (0x43)" "GET" ∧
  CommandRule .readFlash 0x44 4 "READ_FLASH" "READ_FLASH (0x44)" "REA" ∧
  CommandRule .ping 0x49 5 "PING" "PING (0x49)" "PIN" ∧
  CommandRule .readCustom 0x4A 6 "READ_CUSTOM" "READ_CUSTOM (0x4A)" "REA" ∧
  CommandRule .setXpage 0x4C 7 "SET_XPAGE" "SET_XPAGE (0x4C)" "SET" ∧
  CommandRule .writeFlash 0x6E 8 "WRITE_FLASH" "WRITE_FLASH (0x6E)" "WRI" ∧
  CommandRule .writeCustom 0xA5 9 "WRITE_CUSTOM" "WRITE_CUSTOM (0xA5)" "WRI" ∧
  (∀ b : Byte, b ∈ ([0x45, 0x48, 0x4B, 0x4D, 0x76] : List Byte) → cmdRom b = none) ∧
  display specRules .dataIn 0x4A = some ["@4A"] ∧
  emits (started true :: frame 0x00 0x40 0 1) [⟨.dataIn, 0, 8, 0⟩, ⟨.dataOut, 0, 8, 0x40⟩, ⟨.sync, 8, 8, 0⟩] ∧
  ∀ levels : Fin 8 → Level, (∀ j, levels j = (0xA5#8).getLsbD (7 - j.val)) →
    emits (started true :: nineEdges levels levels (fun j => j.val) false false)
      [⟨.dataIn, 0, 8, 0xA5⟩, ⟨.command, 0, 8, 0xA5⟩, ⟨.dataOut, 0, 8, 0xA5⟩, ⟨.sync, 8, 8, 0⟩]

/-- R111: a byte outside the list hits nothing, its frame emits its DATA_IN record and no COMMAND record; a byte of the
list gets exactly one, over the span of the DATA_IN record. -/
def Obligations.UnmatchedByteEmitsNoCommand : Prop :=
  (∀ b : Byte, cmdRom b = none ↔ b ∉ opcodes) ∧
  (∀ s din dout pos, SyncDue s → ∃ t new, exec (.edge din dout pos) s = .next t ∧ t.output = s.output ++ new ∧
    ⟨.dataIn, s.startPosValue, pos, s.dinAcc⟩ ∈ new ∧
    commands new = if s.dinAcc ∈ opcodes then [⟨.command, s.startPosValue, pos, s.dinAcc⟩] else []) ∧
  emits (started false :: frame 0x45 0 0 1) [⟨.dataIn, 0, 8, 0x45⟩, ⟨.sync, 8, 8, 0⟩]

/-- R113: whatever the data-out byte, the COMMAND records of a sync edge are the same. -/
def Obligations.DataOutByteIsNeverClassified : Prop :=
  ∀ s din dout pos (b : Byte), SyncDue s → ∃ t t' new new',
    exec (.edge din dout pos) s = .next t ∧ t.output = s.output ++ new ∧
    exec (.edge din dout pos) { s with doutAcc := b } = .next t' ∧ t'.output = s.output ++ new' ∧
    commands new = commands new'

/-- From 40_command_table.md section 3 (classification is per frame): two frames one after the other are each classified
alone, whatever their bytes. -/
def Obligations.FramesAreClassifiedAlone : Prop :=
  ∀ s (in1 out1 in2 out2 : Byte) (p1 step1 p2 step2 : Pos), s.phase = .run → s.bitSlot = 0 →
    ∃ t, execAll (frame in1 out1 p1 step1 ++ frame in2 out2 p2 step2) s = .next t ∧
      t.output = s.output ++
        (burst p1 (p1 + 8 * step1) in1 (if s.hasDout then out1 else 0) s.hasDout ++
          burst p2 (p2 + 8 * step2) in2 (if s.hasDout then out2 else 0) s.hasDout)

/-- 40_command_table.md section 3, the properties of the table: exactly ten bytes hit, different bytes give different
indices and names, and every opcode but 0xA5 has bit 7 clear and bit 6 set. -/
def Obligations.CommandTableHasTenDistinctEntries : Prop :=
  ((List.range 256).filter fun n => cmdRom (BitVec.ofNat 8 n) ≠ none).length = 10 ∧
  ∀ (b b' : Byte) (c c' : Command), cmdRom b = some c → cmdRom b' = some c' →
    (c.index = c'.index → b = b') ∧ (c.name = c'.name → b = b') ∧
    (b ≠ 0xA5 → b.getLsbD 7 = false ∧ b.getLsbD 6 = true)

/-- The MODEL'S choice (log entry 6): by itself, a command whose condition does not hold has no effect at all. -/
def Obligations.UnselectedCommandChangesNothing : Prop :=
  ∀ (c : Command) (pos : Pos) (s : State), ¬ (SyncDue s ∧ cmdRom s.dinAcc = some c) → exec (c.toInstr pos) s = .next s

/-! ### The byte assembler -/

/-- R120, whole: the encoding, the next state of an edge in each of its cases, every register named or unchanged, and the
example. -/
def Obligations.EdgeFollowsItsPseudocode : Prop :=
  (∀ w din dout pos, encode w (.edge din dout pos) =
    ⟨.txn, [false, true, true] ++ ([din, dout] ++ toBits w.posW pos)⟩) ∧
  (∀ s din dout pos, s.phase ≠ .run → exec (.edge din dout pos) s = .next s) ∧
  (∀ s din dout pos, s.phase = .run → s.bitSlot.val = 0 →
    exec (.edge din dout pos) s =
      .next { s with
        lastPos := some pos, startPos := some pos, bitSlot := 1, dinAcc := BitVec.ofNat 8 din.toNat,
        doutAcc := BitVec.ofNat 8 (dout && s.hasDout).toNat }) ∧
  (∀ s din dout pos, s.phase = .run → 0 < s.bitSlot.val → s.bitSlot.val < 8 → ∃ slot : Slot,
    slot.val = s.bitSlot.val + 1 ∧
    exec (.edge din dout pos) s =
      .next { s with
        lastPos := some pos, bitSlot := slot, dinAcc := BitVec.ofNat 8 (2 * s.dinAcc.toNat + din.toNat),
        doutAcc := s.doutAcc ||| BitVec.ofNat 8 ((dout && s.hasDout).toNat * 2 ^ s.bitSlot.val) }) ∧
  (∀ s din dout pos, SyncDue s →
    exec (.edge din dout pos) s =
      .next { s with
        lastPos := some pos, bitSlot := 0, dinAcc := 0, doutAcc := 0,
        output := s.output ++ burst s.startPosValue pos s.dinAcc s.doutAcc s.hasDout }) ∧
  ∃ t, execAll [started false, .edge true false 5] State.reset = .next t ∧ t.bitSlot = 1 ∧ t.dinAcc = 1 ∧
    t.doutAcc = 0 ∧ t.startPos = some 5 ∧ t.lastPos = some 5 ∧ t.output = []

/-- R121: FRAME_START writes the start position and clears both accumulators, without reading the old position; the
same edge then shifts its first bit; in a state of the invariant the clears are redundant. -/
def Obligations.FrameStartRecordsThePosition : Prop :=
  (∀ s pos, s.phase = .run → s.bitSlot = 0 →
    exec (.frameStart pos) s = .next { s with startPos := some pos, dinAcc := 0, doutAcc := 0 } ∧
    (∀ old, exec (.frameStart pos) { s with startPos := old } = exec (.frameStart pos) s) ∧
    (ReachableInv s → s.dinAcc = 0 ∧ s.doutAcc = 0) ∧
    ∀ din dout, ∃ t, exec (.edge din dout pos) s = .next t ∧ t.startPos = some pos ∧ t.bitSlot = 1 ∧
      t.dinAcc.toNat = din.toNat) ∧
  ∀ s, s.phase = .run → s.bitSlot = 0 → ∃ t, exec (.edge false false 100) s = .next t ∧ t.startPos = some 100

/-- R123: the data-in half of SHIFT writes only `din_acc`, to twice it plus the level, modulo 256; in a state of the
invariant the truncation loses no 1; the example. -/
def Obligations.ShiftDataInDoublesAndAdds : Prop :=
  (∀ s din, DataDue s → ∃ acc : Byte,
    exec (.shiftDin din) s = .next { s with dinAcc := acc } ∧
    acc.toNat = (2 * s.dinAcc.toNat + din.toNat) % 256 ∧
    (ReachableInv s → s.dinAcc.toNat < 2 ^ s.bitSlot.val ∧ s.dinAcc.toNat < 128 ∧ acc.toNat = 2 * s.dinAcc.toNat + din.toNat)) ∧
  ∀ s dout pos, s.phase = .run → s.dinAcc = 0x12 → s.bitSlot = 5 →
    ∃ t, exec (.edge true dout pos) s = .next t ∧ t.dinAcc = 0x25 ∧ t.bitSlot = 6

/-- R124: the data-out half of SHIFT sets bit `bit_slot` of `dout_acc` when the gated level is 1, leaves every other bit,
and increments `bit_slot`, once; with `has_dout` = 0 the level has no effect; in a state of the invariant the bit was
clear before; the examples. -/
def Obligations.ShiftDataOutSetsTheSlotBit : Prop :=
  (∀ s dout, DataDue s → ∃ (acc : Byte) (slot : Slot),
    exec (.shiftDout dout) s = .next { s with doutAcc := acc, bitSlot := slot } ∧
    slot.val = s.bitSlot.val + 1 ∧
    (∀ j, acc.getLsbD j = (s.doutAcc.getLsbD j || (decide (j = s.bitSlot.val) && (dout && s.hasDout)))) ∧
    (s.hasDout = false → acc = s.doutAcc ∧ exec (.shiftDout (!dout)) s = exec (.shiftDout dout) s) ∧
    (ReachableInv s → ∀ j, s.bitSlot.val ≤ j → s.doutAcc.getLsbD j = false)) ∧
  (∀ s din pos, s.phase = .run → s.hasDout = true → s.doutAcc = 0x05 → s.bitSlot = 5 →
    ∃ t, exec (.edge din true pos) s = .next t ∧ t.doutAcc = 0x25 ∧ t.bitSlot = 6) ∧
  ∀ s din pos, s.phase = .run → s.hasDout = false → s.doutAcc = 0 → s.bitSlot = 5 →
    ∃ t, exec (.edge din true pos) s = .next t ∧ t.doutAcc = 0 ∧ t.bitSlot = 6

/-- R125: SYNC emits the burst from the registers as the edge found them, then clears the slot and the accumulators and
writes nothing else; `din` and `dout` of the edge are ignored; the example. -/
def Obligations.SyncEmitsTheBurstAndClears : Prop :=
  (∀ s pos, SyncDue s →
    exec (.sync pos) s =
      .next { s with
        bitSlot := 0, dinAcc := 0, doutAcc := 0,
        output := s.output ++ burst s.startPosValue pos s.dinAcc s.doutAcc s.hasDout } ∧
    ∀ din dout, exec (.edge din dout pos) s = exec (.sync pos) { s with lastPos := some pos }) ∧
  ∀ s, SyncDue s → s.startPos = some 10 → s.dinAcc = 0x45 → s.hasDout = false →
    exec (.edge true true 90) s =
      .next { s with
        bitSlot := 0, dinAcc := 0, doutAcc := 0, lastPos := some 90,
        output := s.output ++ [⟨.dataIn, 10, 90, 0x45⟩, ⟨.sync, 90, 90, 0⟩] }

/-- 41_byte_assembler.md section 4 (the transition table): in phase RUN an EDGE is the micro-operations its slot selects,
in order, after the write of `last_pos`; that the parts can be run by themselves is the model's choice (log entry 6). -/
def Obligations.EdgeRunsTheSelectedMicroOperations : Prop :=
  ∀ s din dout pos, s.phase = .run →
    (s.bitSlot.val = 0 →
      exec (.edge din dout pos) s =
        execAll [.frameStart pos, .shiftDin din, .shiftDout dout] { s with lastPos := some pos }) ∧
    (0 < s.bitSlot.val → s.bitSlot.val < 8 →
      exec (.edge din dout pos) s = execAll [.shiftDin din, .shiftDout dout] { s with lastPos := some pos }) ∧
    (s.bitSlot.val = 8 → exec (.edge din dout pos) s = execAll [.sync pos] { s with lastPos := some pos })

/-- R126: a data edge finalises nothing, the eighth included: the slot goes up by one and no record is emitted, so that
a frame has nine edges. -/
def Obligations.DataEdgeNeverFinalises : Prop :=
  (∀ s din dout pos, DataDue s → ∃ t, exec (.edge din dout pos) s = .next t ∧
    t.bitSlot.val = s.bitSlot.val + 1 ∧ t.output = s.output) ∧
  ∀ s dins douts pos syncDin syncDout, s.phase = .run → s.bitSlot = 0 →
    ∃ t8 t9, execAll ((nineEdges dins douts pos syncDin syncDout).take 8) s = .next t8 ∧ t8.bitSlot = 8 ∧
      t8.output = s.output ∧
      execAll (nineEdges dins douts pos syncDin syncDout) s = .next t9 ∧ t9.bitSlot = 0 ∧ t9.output ≠ s.output

/-- R127: the levels of the sync edge have no effect, on the records or on the next state. -/
def Obligations.SyncEdgeLevelsHaveNoEffect : Prop :=
  ∀ s din dout din' dout' pos, SyncDue s →
    (∃ t, exec (.edge din dout pos) s = .next t ∧ exec (.edge din' dout' pos) s = .next t) ∧
    ∀ msel msel', s.prevClk = some true →
      ∃ t, exec (.sample false din dout msel pos) s = .next t ∧ exec (.sample false din' dout' msel' pos) s = .next t

/-- R122: `start_pos` receives the position of the slot-0 edge and nothing else, the sync edge's is the end of the records
it emits and is stored in `last_pos` only; positions are only copied, never checked or compared: mapping every position by any function, monotone or not,
commutes with the edge (a frame start being held at the sync edge, as in every state of the invariant). -/
def Obligations.PositionsAreOnlyCopied : Prop :=
  (∀ s din dout pos, s.phase = .run → ∃ t, exec (.edge din dout pos) s = .next t ∧ t.lastPos = some pos ∧
    (s.bitSlot = 0 → t.startPos = some pos) ∧ (s.bitSlot ≠ 0 → t.startPos = s.startPos) ∧
    (s.bitSlot = 8 → t.output = s.output ++ burst s.startPosValue pos s.dinAcc s.doutAcc s.hasDout)) ∧
  ∀ (f : Pos → Pos) s din dout pos, (SyncDue s → s.startPos ≠ none) →
    ∃ t, exec (.edge din dout pos) s = .next t ∧
      exec (.edge din dout (f pos)) (mapPositions f s) = .next (mapPositions f t)

/-- R129: a frame in progress is dropped without a record at END_OF_STREAM and at a new SESSION_START, at every slot, 8
included, and whatever follows short of a new session; and when the source ceases before the sync edge: the up to eight
edges it issued emitted nothing. -/
def Obligations.UnfinishedFrameIsDropped : Prop :=
  (∀ s is, s.phase = .run → NoStart is →
    ∃ t, execAll (.endOfStream :: is) s = .next t ∧ t.output = s.output) ∧
  (∀ s cfg, ∃ t, exec (.sessionStart cfg) s = .next t ∧ t.output = s.output ∧ t.bitSlot = 0 ∧ t.dinAcc = 0 ∧
    t.doutAcc = 0) ∧
  ∀ s dins douts pos syncDin syncDout k, s.phase = .run → s.bitSlot = 0 → k ≤ 8 →
    ∃ t, execAll ((nineEdges dins douts pos syncDin syncDout).take k) s = .next t ∧ t.output = s.output

/-- R53 and R54, whole: for every nine edges from a frame boundary, the DATA_IN byte is the number of the data-in levels,
first level most significant, and the DATA_OUT byte, when that wire is configured, that of the data-out levels, first
level least significant; whatever the levels of the sync edge and the positions of the edges between. -/
def Obligations.NineEdgesAssembleBothBytes : Prop :=
  ∀ s dins douts pos syncDin syncDout, s.phase = .run → s.bitSlot = 0 →
    ∃ (dinByte doutByte : Byte),
      dinByte.toNat = (dins 0).toNat * 128 + (dins 1).toNat * 64 + (dins 2).toNat * 32 + (dins 3).toNat * 16 +
        (dins 4).toNat * 8 + (dins 5).toNat * 4 + (dins 6).toNat * 2 + (dins 7).toNat ∧
      (s.hasDout = true →
        doutByte.toNat = (douts 0).toNat + (douts 1).toNat * 2 + (douts 2).toNat * 4 + (douts 3).toNat * 8 +
          (douts 4).toNat * 16 + (douts 5).toNat * 32 + (douts 6).toNat * 64 + (douts 7).toNat * 128) ∧
      (s.hasDout = false → doutByte = 0) ∧
      execAll (nineEdges dins douts pos syncDin syncDout) s =
        .next { s with
          bitSlot := 0, dinAcc := 0, doutAcc := 0, startPos := some (pos 0), lastPos := some (pos 8),
          output := s.output ++ burst (pos 0) (pos 8) dinByte doutByte s.hasDout }

/-- 30_encoding.md section 8: FRAME delivers the two bytes it names, over the span from its first to its ninth edge. -/
def Obligations.FrameDeliversItsBytes : Prop :=
  ∀ s (din dout : Byte) (p0 step : Pos), s.phase = .run → s.bitSlot = 0 →
    execAll (frame din dout p0 step) s =
      .next { s with
        bitSlot := 0, dinAcc := 0, doutAcc := 0, startPos := some p0, lastPos := some (p0 + 8 * step),
        output := s.output ++ burst p0 (p0 + 8 * step) din (if s.hasDout then dout else 0) s.hasDout }

/-- 41_byte_assembler.md section 4 and 42_event_emitter.md section 2: after n edges from slot k the slot is (k + n) mod 9,
and exactly (k + n) / 9 frames were closed, each with one DATA_IN and one SYNC record and, when the wire is configured,
one DATA_OUT record. -/
def Obligations.EdgeCountFixesTheFraming : Prop :=
  ∀ (edges : List (Level × Level × Pos)) s, s.phase = .run →
    ∃ t new, execAll (edges.map fun e => .edge e.1 e.2.1 e.2.2) s = .next t ∧ t.output = s.output ++ new ∧
      t.bitSlot.val = (s.bitSlot.val + edges.length) % 9 ∧
      (new.filter fun r => r.cat = .sync).length = (s.bitSlot.val + edges.length) / 9 ∧
      (new.filter fun r => r.cat = .dataIn).length = (s.bitSlot.val + edges.length) / 9 ∧
      (new.filter fun r => r.cat = .dataOut).length =
        if s.hasDout then (s.bitSlot.val + edges.length) / 9 else 0

/-! ### The event emitter -/

/-- R141, R142, R143: in the burst of a finalised frame the DATA_IN, COMMAND and DATA_OUT records are the first, the second
and the third, each under its condition, over the span of the frame; their category codes; their strings, for any spelling
of HEX2 and ABBR, and as the rules' examples spell them. -/
def Obligations.RecordsEmitUnderTheirConditions : Prop :=
  (∀ w start stop (value : Byte),
    (encode w (.recDataIn start stop value)).bits.take 3 = [false, false, false] ∧
    (encode w (.recCommand start stop value)).bits.take 3 = [false, true, false] ∧
    (encode w (.recDataOut start stop value)).bits.take 3 = [false, false, true]) ∧
  (∀ s pos, SyncDue s → ∃ t, exec (.sync pos) s = .next t ∧
    t.output = s.output ++ ([⟨.dataIn, s.startPosValue, pos, s.dinAcc⟩] ++
      (if s.dinAcc ∈ opcodes then [⟨.command, s.startPosValue, pos, s.dinAcc⟩] else []) ++
      (if s.hasDout = true then [⟨.dataOut, s.startPosValue, pos, s.doutAcc⟩] else []) ++
      [⟨.sync, pos, pos, 0⟩])) ∧
  display specRules .dataIn 0x45 = some ["@45"] ∧ display specRules .dataOut 0x01 = some ["@01"] ∧
  display specRules .command 0x49 = some ["PING (0x49)", "PING", "PIN"] ∧ (0x45 : Byte) ∉ opcodes ∧
  ∀ (r : DisplayRules) (value : Byte), display r .dataIn value = some ["@" ++ r.hex2 value] ∧
    display r .dataOut value = some ["@" ++ r.hex2 value] ∧
    (value ∈ opcodes → ∃ c, cmdRom value = some c ∧ display r .command value =
      some [c.name ++ " (0x" ++ r.hex2 value ++ ")", c.name, r.abbr c.name])

/-- R140: the burst of a finalised frame, from the registers as the sync edge found them, is the four records in their
order, the same as the four record operations emit, which write no register; it has two to four records; the example. -/
def Obligations.BurstIsTheFourRecordsInOrder : Prop :=
  (∀ s pos, SyncDue s → ∃ t u, exec (.sync pos) s = .next t ∧
    execAll [.recDataIn s.startPosValue pos s.dinAcc, .recCommand s.startPosValue pos s.dinAcc,
      .recDataOut s.startPosValue pos s.doutAcc, .recSync pos] s = .next u ∧ t.output = u.output ∧
    u = { s with output := s.output ++ burst s.startPosValue pos s.dinAcc s.doutAcc s.hasDout } ∧
    s.output.length + 2 ≤ t.output.length ∧ t.output.length ≤ s.output.length + 4) ∧
  ∀ s, SyncDue s → s.startPos = some 10 → s.dinAcc = 0x49 → s.doutAcc = 0x80 → s.hasDout = true →
    ∃ t, exec (.sync 90) s = .next t ∧ t.output = s.output ++
      [⟨.dataIn, 10, 90, 0x49⟩, ⟨.command, 10, 90, 0x49⟩, ⟨.dataOut, 10, 90, 0x80⟩, ⟨.sync, 90, 90, 0⟩]

/-- 42_event_emitter.md section 1 (the SYNC record, whose value 0 is decision D9) and 30_encoding.md section 7 (its string,
decision D12, log entry 10): in the burst of a finalised frame it is the last, and the only SYNC record; its one display
string is SYNC_LABEL, under any spelling rules. The MODEL'S choices: by itself, in every state, it appends one empty-span
record (log entry 6); the string is that for any value, where the spec gives it for 0, the only value emitted. -/
def Obligations.SyncRecordClosesTheBurst : Prop :=
  (∀ s stop, exec (.recSync stop) s = .next { s with output := s.output ++ [⟨.sync, stop, stop, 0⟩] }) ∧
  (∀ s din dout pos, SyncDue s → ∃ t front, exec (.edge din dout pos) s = .next t ∧
    t.output = s.output ++ (front ++ [⟨.sync, pos, pos, 0⟩]) ∧ ∀ r ∈ front, r.cat ≠ .sync ∧ r.stop = pos) ∧
  ∀ (r : DisplayRules) (value : Byte), display r .sync value = some [Config.syncLabel]

/-- 30_encoding.md sections 6 and 7 and 60_exceptions.md section 4 (decision D13; log entries 8 and 10): the WARNING category
is emitted by no operation, the reserved row included, which changes nothing; its display string is WARNING_TEXT. -/
def Obligations.WarningIsNeverEmitted : Prop :=
  (∀ s, exec .recWarning s = .next s) ∧
  (∀ i s t, exec i s = .next t → (∀ r ∈ s.output, r.cat ≠ .warning) → ∀ r ∈ t.output, r.cat ≠ .warning) ∧
  ∀ (r : DisplayRules) (value : Byte), display r .warning value = some [Config.warningText]

/-- 42_event_emitter.md section 2 (the emitter is the only producer): a transaction emits only if it is an EDGE, or a
SAMPLE at a falling clock, that arrives in phase RUN at slot 8. -/
def Obligations.OnlySyncEdgesEmit : Prop :=
  ∀ i s t, isTransaction i = true → exec i s = .next t → t.output ≠ s.output →
    SyncDue s ∧
      ((∃ din dout pos, i = .edge din dout pos) ∨
        (∃ din dout msel pos, i = .sample false din dout msel pos ∧ s.prevClk = some true))

/-- 42_event_emitter.md section 1, "When the data-out wire is not configured, no data-out event is ever emitted,
regardless of the sampled levels on that wire": with `has_dout` = 0 the level has no effect and no transaction emits a
DATA_OUT record. -/
def Obligations.UnconfiguredDataOutLeavesNoTrace : Prop :=
  ∀ s, s.hasDout = false →
    (∀ din dout dout' pos, exec (.edge din dout pos) s = exec (.edge din dout' pos) s) ∧
    (∀ clk din dout dout' msel pos, exec (.sample clk din dout msel pos) s = exec (.sample clk din dout' msel pos) s) ∧
    ∀ i, ∃ t new, exec i s = .next t ∧ t.output = s.output ++ new ∧ ∀ r ∈ new, r.cat ≠ .dataOut

/-- R89, R90, R91: the display strings of a data-in, a data-out and a command record, for any spelling of the hexadecimal
byte and any abbreviation; undefined for a COMMAND whose value is not in the table; PING's three strings; what is emitted
is a data-out record only with that wire configured, and a command record only for an opcode. -/
def Obligations.DisplayStringsFollowTheirShapes : Prop :=
  (∀ (r : DisplayRules) (v : Byte),
    display r .dataIn v = some ["@" ++ r.hex2 v] ∧ display r .dataOut v = some ["@" ++ r.hex2 v] ∧
    (v ∉ opcodes → display r .command v = none) ∧
    (v ∈ opcodes → ∃ c, cmdRom v = some c ∧
      display r .command v = some [c.name ++ " (0x" ++ r.hex2 v ++ ")", c.name, r.abbr c.name])) ∧
  display specRules .dataIn 0x4A = some ["@4A"] ∧ display specRules .dataIn 0x45 = some ["@45"] ∧
  display specRules .command 0x49 = some ["PING (0x49)", "PING", "PIN"] ∧
  ∀ i s, ∃ t new, exec i s = .next t ∧ t.output = s.output ++ new ∧
    ∀ r ∈ new, (r.cat = .dataOut → s.hasDout = true) ∧ (r.cat = .command → r.value ∈ opcodes)

/-- 30_encoding.md section 7 (decision D10, log entry 11): `HEX2` is two upper-case digits and tells bytes apart. -/
def Obligations.HexSpellingIsTwoDistinctDigits : Prop :=
  (∀ b : Byte, ∃ hi lo, (specHex2 b).toList = [hi, lo] ∧ hi ∈ "0123456789ABCDEF".toList ∧
    lo ∈ "0123456789ABCDEF".toList ∧
    b.toNat = "0123456789ABCDEF".toList.idxOf hi * 16 + "0123456789ABCDEF".toList.idxOf lo) ∧
  ∀ b b' : Byte, specHex2 b = specHex2 b' → b = b'

/-! ### The session operations -/

/-- 43_decode_loop.md section 1 and 60_exceptions.md section 4 (the bits of the cause and the clears are the spec's own
decision D14): with the clock or the data-in wire missing, SESSION_START takes the configuration error in every phase: FAULT,
the cause, everything of an earlier session cleared, no record, `cfg.has_dout` and `cfg.has_msel` not looked at; the
example. The key of the free value is the model's own (log entry 4). -/
def Obligations.MissingRequiredWireFaults : Prop :=
  (∀ (cfg : Capabilities) s, cfg.hasClk = false ∨ cfg.hasDin = false → ∃ cause : BitVec 2,
    cause.getLsbD 0 = !cfg.hasClk ∧ cause.getLsbD 1 = !cfg.hasDin ∧
    exec (.sessionStart cfg) s =
      .next { s with
        phase := .fault, faultCause := cause, hasDout := false, hasMsel := false, bitSlot := 0, dinAcc := 0,
        doutAcc := 0, startPos := none, lastPos := none, prevClk := none, initCount := s.initCount + 1 } ∧
    ∀ d m, exec (.sessionStart { cfg with hasDout := d, hasMsel := m }) s = exec (.sessionStart cfg) s) ∧
  ∀ s, ∃ t, exec (.sessionStart ⟨false, true, true, true⟩) s = .next t ∧ t.phase = .fault ∧
    t.faultCause = 0b01 ∧ t.output = s.output ∧ t.faultPort = (true, 0b01)

/-- 43_decode_loop.md section 1 (decisions D6, D17, D32): with both required wires SESSION_START initialises the session
in every phase and latches the optional wires; `samplerate` is not touched; the fault port reads no fault. The key of the
free value goes up by one, the model's own choice (log entry 4). -/
def Obligations.GoodStartInitialisesTheSession : Prop :=
  ∀ (cfg : Capabilities) s, cfg.hasClk = true → cfg.hasDin = true → ∃ t,
    exec (.sessionStart cfg) s = .next t ∧
    t = { s with
      phase := .run, faultCause := 0, hasDout := cfg.hasDout, hasMsel := cfg.hasMsel, bitSlot := 0, dinAcc := 0,
      doutAcc := 0, startPos := none, lastPos := none, prevClk := none, initCount := s.initCount + 1 } ∧
    t.faultPort = (false, 0)

/-- 43_decode_loop.md section 1 (a start in phase RUN or FAULT, decision D17): after SESSION_START, good or bad, no
register of the session remembers the state before it. -/
def Obligations.StartForgetsTheOldSession : Prop :=
  ∀ cfg s s', ∃ t t', exec (.sessionStart cfg) s = .next t ∧ exec (.sessionStart cfg) s' = .next t' ∧
    SameSession t t' ∧ t.samplerate = s.samplerate ∧ t.input = s.input ∧ t.output = s.output

/-- 43_decode_loop.md section 2 (decisions D5, D27): SAMPLERATE stores the rate in every phase and changes nothing else. -/
def Obligations.SamplerateOnlyStoresTheRate : Prop :=
  ∀ s rate, exec (.samplerate rate) s = .next { s with samplerate := some rate }

/-- 10_state.md sections 4 to 7: `has_msel`, `last_pos` and `samplerate` are read by nothing: other values of them change
no other register and no record of any operation. -/
def Obligations.UnreadRegistersChangeNothingElse : Prop :=
  ∀ i s msel last rate, ∃ t t',
    exec i s = .next t ∧
    exec i { s with hasMsel := msel, lastPos := last, samplerate := rate } = .next t' ∧
    { t with hasMsel := false, lastPos := none, samplerate := none } =
      { t' with hasMsel := false, lastPos := none, samplerate := none }

/-- 43_decode_loop.md section 3 (decisions D19, D20): a sample that follows a 1 with a 0 acts as the EDGE with its levels
and position; every other sample, the first of a session included, only writes `prev_clk`; the mode-select level is
never read. -/
def Obligations.SampleActsAsEdgeExactlyAtAFall : Prop :=
  ∀ s clk din dout msel pos, s.phase = .run →
    (s.prevClk = some true → clk = false →
      ∃ t, exec (.sample clk din dout msel pos) s = .next t ∧
        exec (.edge din dout pos) { s with prevClk := some false } = .next t) ∧
    (¬ (s.prevClk = some true ∧ clk = false) →
      exec (.sample clk din dout msel pos) s = .next { s with prevClk := some clk }) ∧
    ∀ msel', exec (.sample clk din dout msel' pos) s = exec (.sample clk din dout msel pos) s

/-- 43_decode_loop.md section 3 (the equivalence of the two input levels): in phase RUN a sequence of samples leaves the
assembler's registers and the records of the EDGEs at its falls, for any clock level before it. -/
def Obligations.SamplesActAsTheirFallingEdges : Prop :=
  ∀ (samples : List Sample) s, s.phase = .run →
    ∃ t, execAll (samples.map Sample.toInstr) s = .next t ∧
      execAll (fallingEdges s.prevClk samples) s = .next { t with prevClk := s.prevClk } ∧
      t.prevClk = clockAfter s.prevClk samples

/-- 30_encoding.md section 8: CLOCKFALL acts as exactly one EDGE, whatever clock level went before (at `p = 0` its first
sample's position is the model's choice, log entry 16). -/
def Obligations.ClockfallIsOneEdge : Prop :=
  ∀ s din dout p, s.phase = .run → ∃ t, execAll (clockFall din dout p) s = .next t ∧
    exec (.edge din dout p) { s with prevClk := some false } = .next t

/-- 43_decode_loop.md section 4 (decision D18): END_OF_STREAM takes phase RUN to OFF and writes nothing else. -/
def Obligations.EndOfStreamOnlyLeavesRun : Prop :=
  (∀ s, s.phase = .run → exec .endOfStream s = .next { s with phase := .off }) ∧
  ∀ s, s.phase ≠ .run → exec .endOfStream s = .next s

/-- 43_decode_loop.md section 4 (decision D16): with no session running, edges, samples and the end of stream change
nothing. That the micro-operations of an edge, run by themselves, then change nothing either is the model's choice (log
entry 6). -/
def Obligations.NothingActsOutsideRun : Prop :=
  ∀ s, s.phase ≠ .run →
    (∀ din dout pos, exec (.edge din dout pos) s = .next s) ∧
    (∀ clk din dout msel pos, exec (.sample clk din dout msel pos) s = .next s) ∧
    exec .endOfStream s = .next s ∧
    (∀ pos, exec (.frameStart pos) s = .next s ∧ exec (.sync pos) s = .next s) ∧
    ∀ level, exec (.shiftDin level) s = .next s ∧ exec (.shiftDout level) s = .next s

/-- 30_encoding.md section 6 (decision D2): a transaction with `op` 5, 6 or 7 is taken and ignored. That anything may follow
its `op` is the model's choice (log entry 12). -/
def Obligations.ReservedOpsAreIgnored : Prop :=
  (∀ s low, exec .reservedOp5 s = .next s ∧ exec (.reservedOp6_7 low) s = .next s) ∧
  ∀ s (op : Nat) fields rest, 5 ≤ op → op < 8 → s.input = (toBits 3 op ++ fields) :: rest →
    step s = .next { s with input := rest }

/-- 10_state.md section 3 (how each transaction advances `bit_slot`; a failed start also writes 0, 60_exceptions.md
section 4): the slot after each transaction. -/
def Obligations.BitSlotAdvancesOnlyOnEdges : Prop :=
  ∀ i s t, isTransaction i = true → exec i s = .next t →
    (∀ cfg, i = .sessionStart cfg → t.bitSlot = 0) ∧
    ((∀ cfg, i ≠ .sessionStart cfg) → t.bitSlot ≠ s.bitSlot →
      s.phase = .run ∧ t.bitSlot.val = (if s.bitSlot.val < 8 then s.bitSlot.val + 1 else 0) ∧
      ((∃ din dout pos, i = .edge din dout pos) ∨
        (∃ din dout msel pos, i = .sample false din dout msel pos ∧ s.prevClk = some true))) ∧
    (∀ din dout pos, i = .edge din dout pos → s.phase = .run → t.bitSlot ≠ s.bitSlot)

/-! ### The configuration error and the phases -/

/-- R190: the configuration error is raised by SESSION_START alone, in the step that carries the faulty capability
record, and no operation raises anything else. -/
def Obligations.OnlySessionStartFaults : Prop :=
  (∀ i s t, exec i s = .next t → t.phase = .fault → s.phase ≠ .fault →
    ∃ cfg : Capabilities, i = .sessionStart cfg ∧ (cfg.hasClk = false ∨ cfg.hasDin = false)) ∧
  ∀ i s, ∃ t, exec i s = .next t

/-- R202: the fault is sticky: in phase FAULT no sequence of transactions without a SESSION_START changes the phase or the
cause, or emits a record; the safety predicate is that the phase is not FAULT. -/
def Obligations.FaultIsSticky : Prop :=
  (∀ s is, s.phase = .fault → NoStart is →
    ∃ t, execAll is s = .next t ∧ t.phase = .fault ∧ t.faultCause = s.faultCause ∧ t.output = s.output) ∧
  ∀ s, Safe s ↔ s.phase ≠ .fault

/-- 60_exceptions.md section 6 (decision D7): the phase changes only along the named arcs, by the named transactions. -/
def Obligations.PhaseChangesOnlyAlongItsArcs : Prop :=
  ∀ i s t, exec i s = .next t → t.phase ≠ s.phase →
    (∃ cfg, i = .sessionStart cfg ∧ (t.phase = .run ∨ t.phase = .fault)) ∨
    (i = .endOfStream ∧ s.phase = .run ∧ t.phase = .off)

/-- 10_state.md sections 4 and 5 and 20_memory.md section 8: only SESSION_START writes the capability flags and the cause: the
capability record is read once per session; only SAMPLERATE writes the rate. That only SESSION_START advances the key of
the free value is the model's choice (log entry 4). -/
def Obligations.OnlySessionStartWritesTheFlags : Prop :=
  ∀ i s t, exec i s = .next t → (∀ cfg, i ≠ .sessionStart cfg) →
    t.hasDout = s.hasDout ∧ t.hasMsel = s.hasMsel ∧ t.faultCause = s.faultCause ∧ t.initCount = s.initCount ∧
    ((∀ rate, i ≠ .samplerate rate) → t.samplerate = s.samplerate)

/-- 43_decode_loop.md section 5 and 42_event_emitter.md section 2: every operation answers a next state in every state,
with at most four records appended and the input left alone. -/
def Obligations.EveryOperationCompletes : Prop :=
  ∀ i s, ∃ t new, exec i s = .next t ∧ t.output = s.output ++ new ∧ new.length ≤ 4 ∧ t.input = s.input

/-! ### Reset, invariant, step -/

/-- 70_reset_and_hazards.md section 1 (decisions D6, D7, log entry 15; that the two streams are empty is the model's choice,
log entries 2 and 3): power-on. -/
def Obligations.PowerOnState : Prop :=
  State.reset.phase = .off ∧ State.reset.faultCause = 0 ∧ State.reset.hasDout = false ∧
  State.reset.hasMsel = false ∧ State.reset.bitSlot = 0 ∧ State.reset.dinAcc = 0 ∧ State.reset.doutAcc = 0 ∧
  State.reset.startPos = none ∧ State.reset.lastPos = none ∧ State.reset.samplerate = none ∧
  State.reset.prevClk = none ∧ State.reset.input = [] ∧ State.reset.output = [] ∧
  State.reset.phase.code = 0 ∧ State.reset.faultPort = (false, 0)

/-- The invariant of 10_state.md section 8 holds at power-on. -/
def Obligations.PowerOnMeetsTheInvariant : Prop := ReachableInv State.reset

/-- 10_state.md section 8: every step keeps the invariant of the reachable states. -/
def Obligations.StepKeepsTheInvariant : Prop :=
  ∀ s t, ReachableInv s → step s = .next t → ReachableInv t

/-- 43_decode_loop.md section 5: a step takes the oldest transaction of the input, decodes it and executes it; with none
issued it waits (section 3; log entry 5); a word that is no transaction is refused (the model's choice, log entry 7). -/
def Obligations.StepRunsTheDecodedTransaction : Prop :=
  (∀ s word rest i, s.input = word :: rest → decode ⟨.txn, word⟩ = .ok i → step s = exec i { s with input := rest }) ∧
  (∀ s, s.input = [] → step s = .next s) ∧
  ∀ s word rest why, s.input = word :: rest → decode ⟨.txn, word⟩ = .error why →
    step s = .refused (.malformedTransaction why)

/-- 20_memory.md sections 4 and 6: a step runs transactions only, consumes exactly one, in order, and appends to the
output, never changing what is there: nothing, or one whole burst that ends in its SYNC record. -/
def Obligations.StepTakesOneTransactionAndOnlyAppends : Prop :=
  (∀ w i, isTransaction i = true → (encode w i).port = .txn) ∧
  (∀ word i, decode ⟨.txn, word⟩ = .ok i → isTransaction i = true) ∧
  ∀ s t, step s = .next t → t.input = s.input.tail ∧
    ∃ new, t.output = s.output ++ new ∧
      (new = [] ∨ ∃ start stop din dout gate, new = burst start stop din dout gate)

/-- R225: a session has no memory of an earlier one: from any two states, the same SESSION_START and the same transactions
after it leave the same session registers and emit the same records; the first edge after a start is a first bit. -/
def Obligations.FreshSessionsReplayAlike : Prop :=
  (∀ s (cfg : Capabilities) din dout pos, cfg.hasClk = true → cfg.hasDin = true →
    ∃ t, execAll [.sessionStart cfg, .edge din dout pos] s = .next t ∧ t.bitSlot = 1 ∧ t.startPos = some pos) ∧
  ∀ s s' cfg is, (∀ i ∈ is, isTransaction i = true) → ∃ t t' new,
    execAll (.sessionStart cfg :: is) s = .next t ∧ execAll (.sessionStart cfg :: is) s' = .next t' ∧
    t.output = s.output ++ new ∧ t'.output = s'.output ++ new ∧ SameSession t t'

/-- 10_state.md section 2 and 20_memory.md section 6 (the source's invariant, under the duty of the sample source): if
positions have not decreased up to this edge, every record it emits has `start` ≤ `end`, not before the frame's start
and not after the edge, and the duty's bound carries over. -/
def Obligations.SpansRunForwardWhenPositionsDo : Prop :=
  ∀ s din dout pos, ReachableInv s → s.phase = .run →
    (∀ a l, s.startPos = some a → s.lastPos = some l → a ≤ l ∧ l ≤ pos) →
    ∃ t new, exec (.edge din dout pos) s = .next t ∧ t.output = s.output ++ new ∧
      (∀ r ∈ new, r.start ≤ r.stop ∧ r.stop = pos ∧ ∀ a, s.startPos = some a → a ≤ r.start) ∧
      ∀ a l, t.startPos = some a → t.lastPos = some l → a ≤ l ∧ l = pos

/-! ### The encodings -/

/-- 30_encoding.md sections 1 to 6: decoding the encoding of any well-formed operation, at any widths `POS_W` and
`RATE_W`, gives the operation back, every operand included. The layout of a command's word and of a micro-operation's after
the selector, and their ports, are the model's choice (log entry 13), as is what follows a reserved selector (log entry
12). -/
def Obligations.DecodeReadsBackEveryEncoding : Prop :=
  ∀ (w : Widths) (i : Instr), i.wellFormed w = true → decode (encode w i) = .ok i

/-- 30_encoding.md sections 1 to 5: words of transactions and of a record written out bit by bit from the formats decode to
what they stand for. In the words of PING and of SYNC the position after the selector is the model's layout (log entry
13). -/
def Obligations.SpecWordsDecode : Prop :=
  decode ⟨.txn, [false, false, false, true, true, false, true]⟩ = .ok (.sessionStart ⟨true, true, false, true⟩) ∧
  decode ⟨.txn, [false, false, true, true, false, true]⟩ = .ok (.samplerate 5) ∧
  decode ⟨.txn, [false, true, false, true, false, false, true, true, true, false]⟩ =
    .ok (.sample true false false true 6) ∧
  decode ⟨.txn, [false, true, true, true, false, true, false, true, false]⟩ = .ok (.edge true false 10) ∧
  decode ⟨.txn, [true, false, false]⟩ = .ok .endOfStream ∧
  decode ⟨.cmd8, [false, true, false, false, true, false, false, true, true, true]⟩ = .ok (.ping 3) ∧
  decode ⟨.uopSync, [true, false, false, false, true, false]⟩ = .ok (.sync 2) ∧
  decode ⟨.record, [false, true, false, false, true, true, false, false, true, false, false, true, false, false, true]⟩ =
    .ok (.recCommand 1 2 0x49)

/-- 30_encoding.md sections 1, 2, 3 and 5 and 41_byte_assembler.md section 4 with `opcode_table.json`: among the
transactions, the commands and the records no selector matches two rows; among the micro-operations slot 0 selects
FRAME_START and both halves of SHIFT, slots 1 to 7 the halves of SHIFT, slot 8 SYNC alone and the values 9 to 15, which the
register never holds, no row. -/
def Obligations.RowsSelectOneOperation : Prop :=
  (∀ f ∈ [Format.cmd8, Format.txn, Format.record], ∀ n ∈ List.range (2 ^ f.selectorWidth),
    (opRows.filter fun r => r.format = f ∧ Nat.land n r.mask = r.value).length ≤ 1) ∧
  ∀ k ∈ List.range (2 ^ Format.uop.selectorWidth),
    ((opRows.filter fun r => r.format = .uop ∧ Nat.land k r.mask = r.value).map (·.mnemonic)) =
      if k = 0 then ["FRAME_START", "SHIFT.DIN", "SHIFT.DOUT"]
      else if k < 8 then ["SHIFT.DIN", "SHIFT.DOUT"]
      else if k = 8 then ["SYNC"]
      else []

/-! ### Parts run by themselves, and whole runs -/

/-- The MODEL'S choice (log entry 6): by itself, a micro-operation that the slot does not select has no effect at all. -/
def Obligations.UnselectedMicroOperationChangesNothing : Prop :=
  (∀ s pos, ¬ (s.phase = .run ∧ s.bitSlot = 0) → exec (.frameStart pos) s = .next s) ∧
  (∀ s din, ¬ DataDue s → exec (.shiftDin din) s = .next s) ∧
  (∀ s dout, ¬ DataDue s → exec (.shiftDout dout) s = .next s) ∧
  ∀ s pos, ¬ SyncDue s → exec (.sync pos) s = .next s

/-- 00_scope.md section 4 and 20_memory.md section 6: a run, at every moment of it and however long it goes on, is the
transactions its source has issued, executed one after another in the order issued. A moment at which the source issues
nothing is a step that changes nothing (log entry 5). -/
def Obligations.RunExecutesWhatTheSourceIssues : Prop :=
  ∀ source is s, s.input = [] → Issues source is →
    ∀ n, run source n s = execAll ((List.range n).filterMap is) s

/-- 43_decode_loop.md section 4 and 00_scope.md section 4 (finite and infinite runs; log entries 2 and 5): whatever
transactions the source issues, without end or not, every moment of the run has a next state, and the records only grow;
once the source ceases nothing more is emitted or changed; and a source of edges without end makes exactly the edges
numbered 9, 18, 27 and so on emit, one whole burst each. -/
def Obligations.EndlessAndCeasedRunsAreLegal : Prop :=
  (∀ source is s, s.input = [] → Issues source is → ∀ n, ∃ t, run source n s = .next t ∧
    ∀ m, ∃ u new, run source (n + m) s = .next u ∧ u.output = t.output ++ new) ∧
  (∀ source is s n, s.input = [] → Issues source is → source.Ceases n → ∀ m, run source (n + m) s = run source n s) ∧
  ∀ source (edges : Nat → Level × Level × Pos) s, s.input = [] → s.phase = .run → s.bitSlot = 0 →
    Issues source (fun n => some (.edge (edges n).1 (edges n).2.1 (edges n).2.2)) →
    ∀ k, ∃ t, run source (9 * k) s = .next t ∧
      (∀ j ≤ 8, ∃ u, run source (9 * k + j) s = .next u ∧ u.output = t.output ∧ u.bitSlot.val = j) ∧
      ∃ v din dout, run source (9 * k + 9) s = .next v ∧ v.bitSlot = 0 ∧
        v.output = t.output ++ burst (edges (9 * k)).2.2 (edges (9 * k + 8)).2.2 din dout s.hasDout

/-- The MODEL'S choice (log entry 6): by themselves, in every state, with a frame finalised or not, the DATA_IN, COMMAND and
DATA_OUT records append exactly one record, or none where their condition fails, and change nothing else. -/
def Obligations.RecordsStandAloneUnderTheirConditions : Prop :=
  ∀ s start stop (value : Byte),
    exec (.recDataIn start stop value) s = .next { s with output := s.output ++ [⟨.dataIn, start, stop, value⟩] } ∧
    (value ∈ opcodes →
      exec (.recCommand start stop value) s = .next { s with output := s.output ++ [⟨.command, start, stop, value⟩] }) ∧
    (value ∉ opcodes → exec (.recCommand start stop value) s = .next s) ∧
    (s.hasDout = true →
      exec (.recDataOut start stop value) s = .next { s with output := s.output ++ [⟨.dataOut, start, stop, value⟩] }) ∧
    (s.hasDout = false → exec (.recDataOut start stop value) s = .next s)

/-- The MODEL'S choice (log entry 6): in every state, with a frame finalised or not, the four record operations one after
another emit the burst of their operands, two to four records, and write no register; R140's example among them. -/
def Obligations.RecordOperationsInOrderMakeTheBurst : Prop :=
  (∀ s start stop (din dout : Byte),
    execAll [.recDataIn start stop din, .recCommand start stop din, .recDataOut start stop dout, .recSync stop] s =
      .next { s with output := s.output ++ burst start stop din dout s.hasDout } ∧
    2 ≤ (burst start stop din dout s.hasDout).length ∧ (burst start stop din dout s.hasDout).length ≤ 4) ∧
  ∀ s, s.hasDout = true → ∃ t,
    execAll [.recDataIn 10 90 0x49, .recCommand 10 90 0x49, .recDataOut 10 90 0x80, .recSync 90] s = .next t ∧
    t.output = s.output ++
      [⟨.dataIn, 10, 90, 0x49⟩, ⟨.command, 10, 90, 0x49⟩, ⟨.dataOut, 10, 90, 0x80⟩, ⟨.sync, 90, 90, 0⟩]
end

