-- ==== Sys2Proof/Laws/Bits.lean ====
section
/-! SUPPORT. Bit strings: lengths, and a number read back from the bits it is written in. -/

namespace Sys2Proof

@[simp] theorem length_toBits (w n : Nat) : (toBits w n).length = w := by
  induction w with
  | zero => rfl
  | succ w ih => simp [toBits, ih]

@[simp] theorem length_byteBits (b : Byte) : (byteBits b).length = 8 := length_toBits 8 b.toNat

/-- Writing a number in `w` bits keeps it modulo `2 ^ w`. -/
theorem ofBits_toBits_mod (w n : Nat) : ofBits (toBits w n) = n % 2 ^ w := by
  induction w with
  | zero => simp [toBits, ofBits, Nat.mod_one]
  | succ w ih =>
    have bit : (n.testBit w).toNat = n / 2 ^ w % 2 := Nat.toNat_testBit n w
    rw [toBits, ofBits, ih, length_toBits, bit, Nat.pow_succ, Nat.mod_mul]
    ring

/-- A number that fits is read back from its bits. -/
theorem ofBits_toBits {w n : Nat} (h : n < 2 ^ w) : ofBits (toBits w n) = n := by
  rw [ofBits_toBits_mod, Nat.mod_eq_of_lt h]

/-- A bit string writes a number below `2` to its length. -/
theorem ofBits_lt (bs : BitString) : ofBits bs < 2 ^ bs.length := by
  induction bs with
  | nil => simp [ofBits]
  | cons b bs ih => cases b <;> simp [ofBits, Nat.pow_succ] <;> omega

/-- A byte is read back from its eight bits. -/
theorem ofNat_ofBits_byteBits (b : Byte) : BitVec.ofNat 8 (ofBits (byteBits b)) = b := by
  rw [byteBits, ofBits_toBits b.isLt, BitVec.ofNat_toNat, BitVec.setWidth_eq]

end Sys2Proof
end

