-- ==== Sys2Proof/Laws/State.lean ====
section
/-! SUPPORT. One lemma for each field of State and each update of `Machine/Ops.lean` and `Machine/Fetch.lean`: what the
field is after the update. All are true by definition (a feed, by the two cases of what is issued) and tagged for simp, so that no proof unfolds an update. -/

namespace Sys2Proof.Machine

@[simp] theorem State.emit_phase (s : State) (cat : Category) (start stop : Pos) (value : Byte) :
    (s.emit cat start stop value).phase = s.phase := rfl

@[simp] theorem State.emit_faultCause (s : State) (cat : Category) (start stop : Pos) (value : Byte) :
    (s.emit cat start stop value).faultCause = s.faultCause := rfl

@[simp] theorem State.emit_hasDout (s : State) (cat : Category) (start stop : Pos) (value : Byte) :
    (s.emit cat start stop value).hasDout = s.hasDout := rfl

@[simp] theorem State.emit_hasMsel (s : State) (cat : Category) (start stop : Pos) (value : Byte) :
    (s.emit cat start stop value).hasMsel = s.hasMsel := rfl

@[simp] theorem State.emit_bitSlot (s : State) (cat : Category) (start stop : Pos) (value : Byte) :
    (s.emit cat start stop value).bitSlot = s.bitSlot := rfl

@[simp] theorem State.emit_dinAcc (s : State) (cat : Category) (start stop : Pos) (value : Byte) :
    (s.emit cat start stop value).dinAcc = s.dinAcc := rfl

@[simp] theorem State.emit_doutAcc (s : State) (cat : Category) (start stop : Pos) (value : Byte) :
    (s.emit cat start stop value).doutAcc = s.doutAcc := rfl

@[simp] theorem State.emit_startPos (s : State) (cat : Category) (start stop : Pos) (value : Byte) :
    (s.emit cat start stop value).startPos = s.startPos := rfl

@[simp] theorem State.emit_lastPos (s : State) (cat : Category) (start stop : Pos) (value : Byte) :
    (s.emit cat start stop value).lastPos = s.lastPos := rfl

@[simp] theorem State.emit_samplerate (s : State) (cat : Category) (start stop : Pos) (value : Byte) :
    (s.emit cat start stop value).samplerate = s.samplerate := rfl

@[simp] theorem State.emit_prevClk (s : State) (cat : Category) (start stop : Pos) (value : Byte) :
    (s.emit cat start stop value).prevClk = s.prevClk := rfl

@[simp] theorem State.emit_input (s : State) (cat : Category) (start stop : Pos) (value : Byte) :
    (s.emit cat start stop value).input = s.input := rfl

@[simp] theorem State.emit_output (s : State) (cat : Category) (start stop : Pos) (value : Byte) :
    (s.emit cat start stop value).output = s.output ++ [⟨cat, start, stop, value⟩] := rfl

@[simp] theorem State.emit_initCount (s : State) (cat : Category) (start stop : Pos) (value : Byte) :
    (s.emit cat start stop value).initCount = s.initCount := rfl

@[simp] theorem startFrame_phase (pos : Pos) (s : State) :
    (startFrame pos s).phase = s.phase := rfl

@[simp] theorem startFrame_faultCause (pos : Pos) (s : State) :
    (startFrame pos s).faultCause = s.faultCause := rfl

@[simp] theorem startFrame_hasDout (pos : Pos) (s : State) :
    (startFrame pos s).hasDout = s.hasDout := rfl

@[simp] theorem startFrame_hasMsel (pos : Pos) (s : State) :
    (startFrame pos s).hasMsel = s.hasMsel := rfl

@[simp] theorem startFrame_bitSlot (pos : Pos) (s : State) :
    (startFrame pos s).bitSlot = s.bitSlot := rfl

@[simp] theorem startFrame_dinAcc (pos : Pos) (s : State) :
    (startFrame pos s).dinAcc = 0 := rfl

@[simp] theorem startFrame_doutAcc (pos : Pos) (s : State) :
    (startFrame pos s).doutAcc = 0 := rfl

@[simp] theorem startFrame_startPos (pos : Pos) (s : State) :
    (startFrame pos s).startPos = some pos := rfl

@[simp] theorem startFrame_lastPos (pos : Pos) (s : State) :
    (startFrame pos s).lastPos = s.lastPos := rfl

@[simp] theorem startFrame_samplerate (pos : Pos) (s : State) :
    (startFrame pos s).samplerate = s.samplerate := rfl

@[simp] theorem startFrame_prevClk (pos : Pos) (s : State) :
    (startFrame pos s).prevClk = s.prevClk := rfl

@[simp] theorem startFrame_input (pos : Pos) (s : State) :
    (startFrame pos s).input = s.input := rfl

@[simp] theorem startFrame_output (pos : Pos) (s : State) :
    (startFrame pos s).output = s.output := rfl

@[simp] theorem startFrame_initCount (pos : Pos) (s : State) :
    (startFrame pos s).initCount = s.initCount := rfl

@[simp] theorem shiftDataIn_phase (din : Level) (s : State) :
    (shiftDataIn din s).phase = s.phase := rfl

@[simp] theorem shiftDataIn_faultCause (din : Level) (s : State) :
    (shiftDataIn din s).faultCause = s.faultCause := rfl

@[simp] theorem shiftDataIn_hasDout (din : Level) (s : State) :
    (shiftDataIn din s).hasDout = s.hasDout := rfl

@[simp] theorem shiftDataIn_hasMsel (din : Level) (s : State) :
    (shiftDataIn din s).hasMsel = s.hasMsel := rfl

@[simp] theorem shiftDataIn_bitSlot (din : Level) (s : State) :
    (shiftDataIn din s).bitSlot = s.bitSlot := rfl

@[simp] theorem shiftDataIn_dinAcc (din : Level) (s : State) :
    (shiftDataIn din s).dinAcc = pushMsbFirst s.dinAcc din := rfl

@[simp] theorem shiftDataIn_doutAcc (din : Level) (s : State) :
    (shiftDataIn din s).doutAcc = s.doutAcc := rfl

@[simp] theorem shiftDataIn_startPos (din : Level) (s : State) :
    (shiftDataIn din s).startPos = s.startPos := rfl

@[simp] theorem shiftDataIn_lastPos (din : Level) (s : State) :
    (shiftDataIn din s).lastPos = s.lastPos := rfl

@[simp] theorem shiftDataIn_samplerate (din : Level) (s : State) :
    (shiftDataIn din s).samplerate = s.samplerate := rfl

@[simp] theorem shiftDataIn_prevClk (din : Level) (s : State) :
    (shiftDataIn din s).prevClk = s.prevClk := rfl

@[simp] theorem shiftDataIn_input (din : Level) (s : State) :
    (shiftDataIn din s).input = s.input := rfl

@[simp] theorem shiftDataIn_output (din : Level) (s : State) :
    (shiftDataIn din s).output = s.output := rfl

@[simp] theorem shiftDataIn_initCount (din : Level) (s : State) :
    (shiftDataIn din s).initCount = s.initCount := rfl

@[simp] theorem shiftDataOut_phase (dout : Level) (s : State) :
    (shiftDataOut dout s).phase = s.phase := rfl

@[simp] theorem shiftDataOut_faultCause (dout : Level) (s : State) :
    (shiftDataOut dout s).faultCause = s.faultCause := rfl

@[simp] theorem shiftDataOut_hasDout (dout : Level) (s : State) :
    (shiftDataOut dout s).hasDout = s.hasDout := rfl

@[simp] theorem shiftDataOut_hasMsel (dout : Level) (s : State) :
    (shiftDataOut dout s).hasMsel = s.hasMsel := rfl

@[simp] theorem shiftDataOut_bitSlot (dout : Level) (s : State) :
    (shiftDataOut dout s).bitSlot = s.bitSlot + 1 := rfl

@[simp] theorem shiftDataOut_dinAcc (dout : Level) (s : State) :
    (shiftDataOut dout s).dinAcc = s.dinAcc := rfl

@[simp] theorem shiftDataOut_doutAcc (dout : Level) (s : State) :
    (shiftDataOut dout s).doutAcc = orAtSlot s.doutAcc (gateDout dout s.hasDout) s.bitSlot := rfl

@[simp] theorem shiftDataOut_startPos (dout : Level) (s : State) :
    (shiftDataOut dout s).startPos = s.startPos := rfl

@[simp] theorem shiftDataOut_lastPos (dout : Level) (s : State) :
    (shiftDataOut dout s).lastPos = s.lastPos := rfl

@[simp] theorem shiftDataOut_samplerate (dout : Level) (s : State) :
    (shiftDataOut dout s).samplerate = s.samplerate := rfl

@[simp] theorem shiftDataOut_prevClk (dout : Level) (s : State) :
    (shiftDataOut dout s).prevClk = s.prevClk := rfl

@[simp] theorem shiftDataOut_input (dout : Level) (s : State) :
    (shiftDataOut dout s).input = s.input := rfl

@[simp] theorem shiftDataOut_output (dout : Level) (s : State) :
    (shiftDataOut dout s).output = s.output := rfl

@[simp] theorem shiftDataOut_initCount (dout : Level) (s : State) :
    (shiftDataOut dout s).initCount = s.initCount := rfl

@[simp] theorem closeFrame_phase (s : State) :
    (closeFrame s).phase = s.phase := rfl

@[simp] theorem closeFrame_faultCause (s : State) :
    (closeFrame s).faultCause = s.faultCause := rfl

@[simp] theorem closeFrame_hasDout (s : State) :
    (closeFrame s).hasDout = s.hasDout := rfl

@[simp] theorem closeFrame_hasMsel (s : State) :
    (closeFrame s).hasMsel = s.hasMsel := rfl

@[simp] theorem closeFrame_bitSlot (s : State) :
    (closeFrame s).bitSlot = 0 := rfl

@[simp] theorem closeFrame_dinAcc (s : State) :
    (closeFrame s).dinAcc = 0 := rfl

@[simp] theorem closeFrame_doutAcc (s : State) :
    (closeFrame s).doutAcc = 0 := rfl

@[simp] theorem closeFrame_startPos (s : State) :
    (closeFrame s).startPos = s.startPos := rfl

@[simp] theorem closeFrame_lastPos (s : State) :
    (closeFrame s).lastPos = s.lastPos := rfl

@[simp] theorem closeFrame_samplerate (s : State) :
    (closeFrame s).samplerate = s.samplerate := rfl

@[simp] theorem closeFrame_prevClk (s : State) :
    (closeFrame s).prevClk = s.prevClk := rfl

@[simp] theorem closeFrame_input (s : State) :
    (closeFrame s).input = s.input := rfl

@[simp] theorem closeFrame_output (s : State) :
    (closeFrame s).output = s.output := rfl

@[simp] theorem closeFrame_initCount (s : State) :
    (closeFrame s).initCount = s.initCount := rfl

@[simp] theorem setLastPos_phase (pos : Pos) (s : State) :
    (setLastPos pos s).phase = s.phase := rfl

@[simp] theorem setLastPos_faultCause (pos : Pos) (s : State) :
    (setLastPos pos s).faultCause = s.faultCause := rfl

@[simp] theorem setLastPos_hasDout (pos : Pos) (s : State) :
    (setLastPos pos s).hasDout = s.hasDout := rfl

@[simp] theorem setLastPos_hasMsel (pos : Pos) (s : State) :
    (setLastPos pos s).hasMsel = s.hasMsel := rfl

@[simp] theorem setLastPos_bitSlot (pos : Pos) (s : State) :
    (setLastPos pos s).bitSlot = s.bitSlot := rfl

@[simp] theorem setLastPos_dinAcc (pos : Pos) (s : State) :
    (setLastPos pos s).dinAcc = s.dinAcc := rfl

@[simp] theorem setLastPos_doutAcc (pos : Pos) (s : State) :
    (setLastPos pos s).doutAcc = s.doutAcc := rfl

@[simp] theorem setLastPos_startPos (pos : Pos) (s : State) :
    (setLastPos pos s).startPos = s.startPos := rfl

@[simp] theorem setLastPos_lastPos (pos : Pos) (s : State) :
    (setLastPos pos s).lastPos = some pos := rfl

@[simp] theorem setLastPos_samplerate (pos : Pos) (s : State) :
    (setLastPos pos s).samplerate = s.samplerate := rfl

@[simp] theorem setLastPos_prevClk (pos : Pos) (s : State) :
    (setLastPos pos s).prevClk = s.prevClk := rfl

@[simp] theorem setLastPos_input (pos : Pos) (s : State) :
    (setLastPos pos s).input = s.input := rfl

@[simp] theorem setLastPos_output (pos : Pos) (s : State) :
    (setLastPos pos s).output = s.output := rfl

@[simp] theorem setLastPos_initCount (pos : Pos) (s : State) :
    (setLastPos pos s).initCount = s.initCount := rfl

@[simp] theorem clearSession_phase (s : State) :
    (clearSession s).phase = s.phase := rfl

@[simp] theorem clearSession_faultCause (s : State) :
    (clearSession s).faultCause = s.faultCause := rfl

@[simp] theorem clearSession_hasDout (s : State) :
    (clearSession s).hasDout = s.hasDout := rfl

@[simp] theorem clearSession_hasMsel (s : State) :
    (clearSession s).hasMsel = s.hasMsel := rfl

@[simp] theorem clearSession_bitSlot (s : State) :
    (clearSession s).bitSlot = 0 := rfl

@[simp] theorem clearSession_dinAcc (s : State) :
    (clearSession s).dinAcc = 0 := rfl

@[simp] theorem clearSession_doutAcc (s : State) :
    (clearSession s).doutAcc = 0 := rfl

@[simp] theorem clearSession_startPos (s : State) :
    (clearSession s).startPos = none := rfl

@[simp] theorem clearSession_lastPos (s : State) :
    (clearSession s).lastPos = none := rfl

@[simp] theorem clearSession_samplerate (s : State) :
    (clearSession s).samplerate = s.samplerate := rfl

@[simp] theorem clearSession_prevClk (s : State) :
    (clearSession s).prevClk = none := rfl

@[simp] theorem clearSession_input (s : State) :
    (clearSession s).input = s.input := rfl

@[simp] theorem clearSession_output (s : State) :
    (clearSession s).output = s.output := rfl

@[simp] theorem clearSession_initCount (s : State) :
    (clearSession s).initCount = s.initCount + 1 := rfl

@[simp] theorem raiseConfigError_phase (cause : BitVec 2) (s : State) :
    (raiseConfigError cause s).phase = .fault := rfl

@[simp] theorem raiseConfigError_faultCause (cause : BitVec 2) (s : State) :
    (raiseConfigError cause s).faultCause = cause := rfl

@[simp] theorem raiseConfigError_hasDout (cause : BitVec 2) (s : State) :
    (raiseConfigError cause s).hasDout = false := rfl

@[simp] theorem raiseConfigError_hasMsel (cause : BitVec 2) (s : State) :
    (raiseConfigError cause s).hasMsel = false := rfl

@[simp] theorem raiseConfigError_bitSlot (cause : BitVec 2) (s : State) :
    (raiseConfigError cause s).bitSlot = 0 := rfl

@[simp] theorem raiseConfigError_dinAcc (cause : BitVec 2) (s : State) :
    (raiseConfigError cause s).dinAcc = 0 := rfl

@[simp] theorem raiseConfigError_doutAcc (cause : BitVec 2) (s : State) :
    (raiseConfigError cause s).doutAcc = 0 := rfl

@[simp] theorem raiseConfigError_startPos (cause : BitVec 2) (s : State) :
    (raiseConfigError cause s).startPos = none := rfl

@[simp] theorem raiseConfigError_lastPos (cause : BitVec 2) (s : State) :
    (raiseConfigError cause s).lastPos = none := rfl

@[simp] theorem raiseConfigError_samplerate (cause : BitVec 2) (s : State) :
    (raiseConfigError cause s).samplerate = s.samplerate := rfl

@[simp] theorem raiseConfigError_prevClk (cause : BitVec 2) (s : State) :
    (raiseConfigError cause s).prevClk = none := rfl

@[simp] theorem raiseConfigError_input (cause : BitVec 2) (s : State) :
    (raiseConfigError cause s).input = s.input := rfl

@[simp] theorem raiseConfigError_output (cause : BitVec 2) (s : State) :
    (raiseConfigError cause s).output = s.output := rfl

@[simp] theorem raiseConfigError_initCount (cause : BitVec 2) (s : State) :
    (raiseConfigError cause s).initCount = s.initCount + 1 := rfl

@[simp] theorem startSession_phase (cfg : Capabilities) (s : State) :
    (startSession cfg s).phase = .run := rfl

@[simp] theorem startSession_faultCause (cfg : Capabilities) (s : State) :
    (startSession cfg s).faultCause = 0 := rfl

@[simp] theorem startSession_hasDout (cfg : Capabilities) (s : State) :
    (startSession cfg s).hasDout = cfg.hasDout := rfl

@[simp] theorem startSession_hasMsel (cfg : Capabilities) (s : State) :
    (startSession cfg s).hasMsel = cfg.hasMsel := rfl

@[simp] theorem startSession_bitSlot (cfg : Capabilities) (s : State) :
    (startSession cfg s).bitSlot = 0 := rfl

@[simp] theorem startSession_dinAcc (cfg : Capabilities) (s : State) :
    (startSession cfg s).dinAcc = 0 := rfl

@[simp] theorem startSession_doutAcc (cfg : Capabilities) (s : State) :
    (startSession cfg s).doutAcc = 0 := rfl

@[simp] theorem startSession_startPos (cfg : Capabilities) (s : State) :
    (startSession cfg s).startPos = none := rfl

@[simp] theorem startSession_lastPos (cfg : Capabilities) (s : State) :
    (startSession cfg s).lastPos = none := rfl

@[simp] theorem startSession_samplerate (cfg : Capabilities) (s : State) :
    (startSession cfg s).samplerate = s.samplerate := rfl

@[simp] theorem startSession_prevClk (cfg : Capabilities) (s : State) :
    (startSession cfg s).prevClk = none := rfl

@[simp] theorem startSession_input (cfg : Capabilities) (s : State) :
    (startSession cfg s).input = s.input := rfl

@[simp] theorem startSession_output (cfg : Capabilities) (s : State) :
    (startSession cfg s).output = s.output := rfl

@[simp] theorem startSession_initCount (cfg : Capabilities) (s : State) :
    (startSession cfg s).initCount = s.initCount + 1 := rfl

@[simp] theorem setPrevClk_phase (clk : Level) (s : State) :
    (setPrevClk clk s).phase = s.phase := rfl

@[simp] theorem setPrevClk_faultCause (clk : Level) (s : State) :
    (setPrevClk clk s).faultCause = s.faultCause := rfl

@[simp] theorem setPrevClk_hasDout (clk : Level) (s : State) :
    (setPrevClk clk s).hasDout = s.hasDout := rfl

@[simp] theorem setPrevClk_hasMsel (clk : Level) (s : State) :
    (setPrevClk clk s).hasMsel = s.hasMsel := rfl

@[simp] theorem setPrevClk_bitSlot (clk : Level) (s : State) :
    (setPrevClk clk s).bitSlot = s.bitSlot := rfl

@[simp] theorem setPrevClk_dinAcc (clk : Level) (s : State) :
    (setPrevClk clk s).dinAcc = s.dinAcc := rfl

@[simp] theorem setPrevClk_doutAcc (clk : Level) (s : State) :
    (setPrevClk clk s).doutAcc = s.doutAcc := rfl

@[simp] theorem setPrevClk_startPos (clk : Level) (s : State) :
    (setPrevClk clk s).startPos = s.startPos := rfl

@[simp] theorem setPrevClk_lastPos (clk : Level) (s : State) :
    (setPrevClk clk s).lastPos = s.lastPos := rfl

@[simp] theorem setPrevClk_samplerate (clk : Level) (s : State) :
    (setPrevClk clk s).samplerate = s.samplerate := rfl

@[simp] theorem setPrevClk_prevClk (clk : Level) (s : State) :
    (setPrevClk clk s).prevClk = some clk := rfl

@[simp] theorem setPrevClk_input (clk : Level) (s : State) :
    (setPrevClk clk s).input = s.input := rfl

@[simp] theorem setPrevClk_output (clk : Level) (s : State) :
    (setPrevClk clk s).output = s.output := rfl

@[simp] theorem setPrevClk_initCount (clk : Level) (s : State) :
    (setPrevClk clk s).initCount = s.initCount := rfl

@[simp] theorem setSamplerate_phase (rate : Rate) (s : State) :
    (setSamplerate rate s).phase = s.phase := rfl

@[simp] theorem setSamplerate_faultCause (rate : Rate) (s : State) :
    (setSamplerate rate s).faultCause = s.faultCause := rfl

@[simp] theorem setSamplerate_hasDout (rate : Rate) (s : State) :
    (setSamplerate rate s).hasDout = s.hasDout := rfl

@[simp] theorem setSamplerate_hasMsel (rate : Rate) (s : State) :
    (setSamplerate rate s).hasMsel = s.hasMsel := rfl

@[simp] theorem setSamplerate_bitSlot (rate : Rate) (s : State) :
    (setSamplerate rate s).bitSlot = s.bitSlot := rfl

@[simp] theorem setSamplerate_dinAcc (rate : Rate) (s : State) :
    (setSamplerate rate s).dinAcc = s.dinAcc := rfl

@[simp] theorem setSamplerate_doutAcc (rate : Rate) (s : State) :
    (setSamplerate rate s).doutAcc = s.doutAcc := rfl

@[simp] theorem setSamplerate_startPos (rate : Rate) (s : State) :
    (setSamplerate rate s).startPos = s.startPos := rfl

@[simp] theorem setSamplerate_lastPos (rate : Rate) (s : State) :
    (setSamplerate rate s).lastPos = s.lastPos := rfl

@[simp] theorem setSamplerate_samplerate (rate : Rate) (s : State) :
    (setSamplerate rate s).samplerate = some rate := rfl

@[simp] theorem setSamplerate_prevClk (rate : Rate) (s : State) :
    (setSamplerate rate s).prevClk = s.prevClk := rfl

@[simp] theorem setSamplerate_input (rate : Rate) (s : State) :
    (setSamplerate rate s).input = s.input := rfl

@[simp] theorem setSamplerate_output (rate : Rate) (s : State) :
    (setSamplerate rate s).output = s.output := rfl

@[simp] theorem setSamplerate_initCount (rate : Rate) (s : State) :
    (setSamplerate rate s).initCount = s.initCount := rfl

@[simp] theorem endSession_phase (s : State) :
    (endSession s).phase = .off := rfl

@[simp] theorem endSession_faultCause (s : State) :
    (endSession s).faultCause = s.faultCause := rfl

@[simp] theorem endSession_hasDout (s : State) :
    (endSession s).hasDout = s.hasDout := rfl

@[simp] theorem endSession_hasMsel (s : State) :
    (endSession s).hasMsel = s.hasMsel := rfl

@[simp] theorem endSession_bitSlot (s : State) :
    (endSession s).bitSlot = s.bitSlot := rfl

@[simp] theorem endSession_dinAcc (s : State) :
    (endSession s).dinAcc = s.dinAcc := rfl

@[simp] theorem endSession_doutAcc (s : State) :
    (endSession s).doutAcc = s.doutAcc := rfl

@[simp] theorem endSession_startPos (s : State) :
    (endSession s).startPos = s.startPos := rfl

@[simp] theorem endSession_lastPos (s : State) :
    (endSession s).lastPos = s.lastPos := rfl

@[simp] theorem endSession_samplerate (s : State) :
    (endSession s).samplerate = s.samplerate := rfl

@[simp] theorem endSession_prevClk (s : State) :
    (endSession s).prevClk = s.prevClk := rfl

@[simp] theorem endSession_input (s : State) :
    (endSession s).input = s.input := rfl

@[simp] theorem endSession_output (s : State) :
    (endSession s).output = s.output := rfl

@[simp] theorem endSession_initCount (s : State) :
    (endSession s).initCount = s.initCount := rfl

@[simp] theorem State.issue_phase (s : State) (word : BitString) :
    (s.issue word).phase = s.phase := rfl

@[simp] theorem State.issue_faultCause (s : State) (word : BitString) :
    (s.issue word).faultCause = s.faultCause := rfl

@[simp] theorem State.issue_hasDout (s : State) (word : BitString) :
    (s.issue word).hasDout = s.hasDout := rfl

@[simp] theorem State.issue_hasMsel (s : State) (word : BitString) :
    (s.issue word).hasMsel = s.hasMsel := rfl

@[simp] theorem State.issue_bitSlot (s : State) (word : BitString) :
    (s.issue word).bitSlot = s.bitSlot := rfl

@[simp] theorem State.issue_dinAcc (s : State) (word : BitString) :
    (s.issue word).dinAcc = s.dinAcc := rfl

@[simp] theorem State.issue_doutAcc (s : State) (word : BitString) :
    (s.issue word).doutAcc = s.doutAcc := rfl

@[simp] theorem State.issue_startPos (s : State) (word : BitString) :
    (s.issue word).startPos = s.startPos := rfl

@[simp] theorem State.issue_lastPos (s : State) (word : BitString) :
    (s.issue word).lastPos = s.lastPos := rfl

@[simp] theorem State.issue_samplerate (s : State) (word : BitString) :
    (s.issue word).samplerate = s.samplerate := rfl

@[simp] theorem State.issue_prevClk (s : State) (word : BitString) :
    (s.issue word).prevClk = s.prevClk := rfl

@[simp] theorem State.issue_input (s : State) (word : BitString) :
    (s.issue word).input = word :: s.input := rfl

@[simp] theorem State.issue_output (s : State) (word : BitString) :
    (s.issue word).output = s.output := rfl

@[simp] theorem State.issue_initCount (s : State) (word : BitString) :
    (s.issue word).initCount = s.initCount := rfl

@[simp] theorem State.feed_none (s : State) : s.feed none = s := rfl

@[simp] theorem State.feed_some_input (s : State) (word : BitString) :
    (s.feed (some word)).input = s.input ++ [word] := rfl

@[simp] theorem State.feed_phase (s : State) (issued : Option BitString) :
    (s.feed issued).phase = s.phase := by cases issued <;> rfl

@[simp] theorem State.feed_faultCause (s : State) (issued : Option BitString) :
    (s.feed issued).faultCause = s.faultCause := by cases issued <;> rfl

@[simp] theorem State.feed_hasDout (s : State) (issued : Option BitString) :
    (s.feed issued).hasDout = s.hasDout := by cases issued <;> rfl

@[simp] theorem State.feed_hasMsel (s : State) (issued : Option BitString) :
    (s.feed issued).hasMsel = s.hasMsel := by cases issued <;> rfl

@[simp] theorem State.feed_bitSlot (s : State) (issued : Option BitString) :
    (s.feed issued).bitSlot = s.bitSlot := by cases issued <;> rfl

@[simp] theorem State.feed_dinAcc (s : State) (issued : Option BitString) :
    (s.feed issued).dinAcc = s.dinAcc := by cases issued <;> rfl

@[simp] theorem State.feed_doutAcc (s : State) (issued : Option BitString) :
    (s.feed issued).doutAcc = s.doutAcc := by cases issued <;> rfl

@[simp] theorem State.feed_startPos (s : State) (issued : Option BitString) :
    (s.feed issued).startPos = s.startPos := by cases issued <;> rfl

@[simp] theorem State.feed_lastPos (s : State) (issued : Option BitString) :
    (s.feed issued).lastPos = s.lastPos := by cases issued <;> rfl

@[simp] theorem State.feed_samplerate (s : State) (issued : Option BitString) :
    (s.feed issued).samplerate = s.samplerate := by cases issued <;> rfl

@[simp] theorem State.feed_prevClk (s : State) (issued : Option BitString) :
    (s.feed issued).prevClk = s.prevClk := by cases issued <;> rfl

@[simp] theorem State.feed_output (s : State) (issued : Option BitString) :
    (s.feed issued).output = s.output := by cases issued <;> rfl

@[simp] theorem State.feed_initCount (s : State) (issued : Option BitString) :
    (s.feed issued).initCount = s.initCount := by cases issued <;> rfl

end Sys2Proof.Machine
end

