-- ==== Sys2Proof/Laws/Ops.lean ====
section
/-! SUPPORT. For each shared operation, what it does, said once. -/

namespace Sys2Proof.Machine

/-! ### Operand forms -/

/-- Shifting a level in at the low end, as arithmetic (R130). -/
theorem pushMsbFirst_toNat (acc : Byte) (level : Level) :
    (pushMsbFirst acc level).toNat = (2 * acc.toNat + level.toNat) % 256 := by
  simp [pushMsbFirst, BitVec.toNat_concat, Nat.mul_comm, Nat.add_comm]

/-- ORing a level in at a slot sets that bit and leaves the others (R131). -/
theorem getLsbD_orAtSlot (acc : Byte) (level : Level) {slot : Slot} (h : slot < 8) (j : Nat) :
    (orAtSlot acc level slot).getLsbD j = (acc.getLsbD j || (decide (j = slot.val) && level)) := by
  have h8 : slot.val < 8 := h
  by_cases hj : j < 8
  · by_cases hlt : j < slot.val
    · have : j ≠ slot.val := by omega
      simp [orAtSlot, hj, hlt, this]
    · by_cases heq : j = slot.val
      · subst heq; simp [orAtSlot, h8]
      · have : j - slot.val ≠ 0 := by omega
        simp [orAtSlot, hj, hlt, heq, this]
  · have : j ≠ slot.val := by omega
    simp [orAtSlot, this, BitVec.getLsbD_of_ge _ _ (not_lt.mp hj)]

/-- ORing a 0 in changes nothing (R131). -/
@[simp] theorem orAtSlot_false (acc : Byte) (slot : Slot) : orAtSlot acc false slot = acc := by
  simp [orAtSlot]

@[simp] theorem gateDout_false (dout : Level) : gateDout dout false = false := by
  simp [gateDout]

/-- The clock falls exactly from a known 1 to a 0 (R170). -/
theorem clockFalls_iff (prev : Option Level) (clk : Level) :
    clockFalls prev clk = true ↔ prev = some true ∧ clk = false := by
  simp [clockFalls]

theorem startPosValue_of_some {s : State} {p : Pos} (h : s.startPos = some p) : s.startPosValue = p := by
  simp [State.startPosValue, h]

/-! ### The Command Table -/

/-- The bytes that hit are the opcodes of the ten commands, each its own (R82, R100). -/
theorem cmdRom_eq_some_iff (b : Byte) (c : Command) : cmdRom b = some c ↔ b = c.opcode := by
  constructor
  · intro h
    obtain ⟨row, hfind, rfl⟩ := Option.map_eq_some_iff.mp h
    have hbyte : row.1 = b := by simpa using List.find?_some hfind
    have hall : ∀ r ∈ commandTable, r.1 = r.2.opcode := by decide
    exact hbyte ▸ hall row (List.mem_of_find?_eq_some hfind)
  · rintro rfl
    cases c <;> rfl

/-! ### The burst and the edge -/

/-- The burst is the only effect of `EmitFrame`: the four records, the second and the third under their conditions
(R140). -/
theorem emitFrame_eq (start stop : Pos) (din dout : Byte) (gate : Level) (s : State) :
    emitFrame start stop din dout gate s =
      { s with output := s.output ++ (⟨.dataIn, start, stop, din⟩ ::
          ((if cmdRom din ≠ none then [⟨.command, start, stop, din⟩] else []) ++
            ((if gate = true then [⟨.dataOut, start, stop, dout⟩] else []) ++ [⟨.sync, stop, stop, 0⟩]))) } := by
  unfold emitFrame emitSync emitDataOut emitCommand emitDataIn
  split <;> split <;> simp [State.emit]

/-- Outside phase RUN an edge does nothing (R177). -/
theorem edgeStep_idle {s : State} (h : s.phase ≠ .run) (din dout : Level) (pos : Pos) :
    edgeStep din dout pos s = s := by
  simp [edgeStep, h]

/-- The first edge of a frame: FRAME_START, then SHIFT (R120). -/
theorem edgeStep_first {s : State} (h : s.phase = .run) (h0 : s.bitSlot = 0) (din dout : Level) (pos : Pos) :
    edgeStep din dout pos s = shiftDataOut dout (shiftDataIn din (startFrame pos (setLastPos pos s))) := by
  simp [edgeStep, h, h0]

/-- A later data edge: SHIFT (R120). -/
theorem edgeStep_data {s : State} (h : s.phase = .run) (h0 : s.bitSlot ≠ 0) (h8 : s.bitSlot < 8)
    (din dout : Level) (pos : Pos) :
    edgeStep din dout pos s = shiftDataOut dout (shiftDataIn din (setLastPos pos s)) := by
  simp [edgeStep, h, h0, h8]

/-- The sync edge: SYNC (R120, R125). -/
theorem edgeStep_sync {s : State} (h : s.phase = .run) (h8 : s.bitSlot = 8) (din dout : Level) (pos : Pos) :
    edgeStep din dout pos s = syncFrame pos (setLastPos pos s) := by
  simp [edgeStep, h, h8]

/-- A slot that is not below 8 is 8 (R28). -/
theorem slot_eq_eight {k : Slot} (h : ¬ k < 8) : k = 8 := by
  revert k; decide

/-- Everything an edge can do (R120). -/
theorem edgeStep_cases (din dout : Level) (pos : Pos) (s : State) :
    (s.phase ≠ .run ∧ edgeStep din dout pos s = s) ∨
    (s.phase = .run ∧ s.bitSlot = 0 ∧
      edgeStep din dout pos s = shiftDataOut dout (shiftDataIn din (startFrame pos (setLastPos pos s)))) ∨
    (s.phase = .run ∧ s.bitSlot ≠ 0 ∧ s.bitSlot < 8 ∧
      edgeStep din dout pos s = shiftDataOut dout (shiftDataIn din (setLastPos pos s))) ∨
    (s.phase = .run ∧ s.bitSlot = 8 ∧ edgeStep din dout pos s = syncFrame pos (setLastPos pos s)) := by
  by_cases h : s.phase = .run
  · by_cases h8 : s.bitSlot < 8
    · by_cases h0 : s.bitSlot = 0
      · exact .inr (.inl ⟨h, h0, edgeStep_first h h0 din dout pos⟩)
      · exact .inr (.inr (.inl ⟨h, h0, h8, edgeStep_data h h0 h8 din dout pos⟩))
    · exact .inr (.inr (.inr ⟨h, slot_eq_eight h8, edgeStep_sync h (slot_eq_eight h8) din dout pos⟩))
  · exact .inl ⟨h, edgeStep_idle h din dout pos⟩

/-! ### The session -/

/-- The cause is 0 exactly when both required wires are configured (R160, R191). -/
theorem causeMask_eq_zero_iff (cfg : Capabilities) : causeMask cfg = 0 ↔ cfg.hasClk = true ∧ cfg.hasDin = true := by
  obtain ⟨a, b, c, d⟩ := cfg
  cases a <;> cases b <;> simp [causeMask]

/-- Everything a session start can do (R160). -/
theorem execSessionStart_cases (cfg : Capabilities) (s : State) :
    (causeMask cfg ≠ 0 ∧ execSessionStart cfg s = .next (raiseConfigError (causeMask cfg) s)) ∨
    (causeMask cfg = 0 ∧ execSessionStart cfg s = .next (startSession cfg s)) := by
  by_cases h : causeMask cfg = 0
  · exact .inr ⟨h, by simp only [execSessionStart, h, ne_eq, not_true_eq_false, if_false]⟩
  · exact .inl ⟨h, by simp only [execSessionStart, if_pos (show causeMask cfg ≠ 0 from h)]⟩

/-- Everything a sample can do (R171). -/
theorem execSample_cases (clk din dout : Level) (pos : Pos) (s : State) :
    (s.phase ≠ .run ∧ execSample clk din dout pos s = .next s) ∨
    (s.phase = .run ∧ clockFalls s.prevClk clk = true ∧
      execSample clk din dout pos s = .next (edgeStep din dout pos (setPrevClk clk s))) ∨
    (s.phase = .run ∧ clockFalls s.prevClk clk = false ∧
      execSample clk din dout pos s = .next (setPrevClk clk s)) := by
  by_cases h : s.phase = .run
  · cases hf : clockFalls s.prevClk clk
    · exact .inr (.inr ⟨h, rfl, by simp [execSample, h, hf]⟩)
    · exact .inr (.inl ⟨h, rfl, by simp [execSample, h, hf]⟩)
  · exact .inl ⟨h, by simp [execSample, h]⟩

/-- Everything a classification can do (R101 to R111). -/
theorem classifyAs_cases (c : Command) (pos : Pos) (s : State) :
    (s.phase = .run ∧ s.bitSlot = 8 ∧ s.dinAcc = c.opcode ∧
      classifyAs c pos s = s.emit .command s.startPosValue pos c.opcode) ∨
    (¬ (s.phase = .run ∧ s.bitSlot = 8 ∧ s.dinAcc = c.opcode) ∧ classifyAs c pos s = s) := by
  by_cases h : s.phase = .run ∧ s.bitSlot = 8 ∧ s.dinAcc = c.opcode
  · exact .inl ⟨h.1, h.2.1, h.2.2, by simp [classifyAs, h]⟩
  · exact .inr ⟨h, by simp only [classifyAs, if_neg h]⟩

/-! ### The step -/

/-- Everything a step can do (R174, R178). -/
theorem step_cases (s : State) :
    (s.input = [] ∧ step s = .next s) ∨
    (∃ word rest i, s.input = word :: rest ∧ decode ⟨.txn, word⟩ = .ok i ∧
      step s = exec i { s with input := rest }) ∨
    (∃ word rest why, s.input = word :: rest ∧ decode ⟨.txn, word⟩ = .error why ∧
      step s = .refused (.malformedTransaction why)) := by
  cases h : s.input with
  | nil => exact .inl ⟨rfl, by simp [step, State.takeInput, h]⟩
  | cons word rest =>
    cases hd : decode ⟨.txn, word⟩ with
    | ok i => exact .inr (.inl ⟨word, rest, i, rfl, hd, by simp [step, State.takeInput, h, hd]⟩)
    | error why => exact .inr (.inr ⟨word, rest, why, rfl, hd, by simp [step, State.takeInput, h, hd]⟩)

end Sys2Proof.Machine
end

