-- ==== Sys2Proof/Laws/PerInstr.lean ====
section
/-! SUPPORT. The family RowMatch: an operation's encoding carries, in its selector, exactly the bits that its row of
`opcode_table.json` matches under its mask, and the row stands in the table. -/

namespace Sys2Proof.Laws

/-- At every width, the word of the operation matches the one row of its mnemonic. -/
def RowMatch.Statement (i : Instr) : Prop :=
  ∀ w : Widths, ∃ r ∈ opRows, r.mnemonic = i.mnemonic ∧ r.matches (encode w i) = true

/-- A row matches a word that begins with the row's bits, whatever the masked-out bits are. -/
theorem matches_of_selector {r : OpRow} {p : Port} {v : Nat} (rest : BitString) (hf : p.format = r.format)
    (hv : v < 2 ^ r.format.selectorWidth) (hm : Nat.land v r.mask = r.value) :
    r.matches ⟨p, toBits r.format.selectorWidth v ++ rest⟩ = true := by
  have htake : (toBits r.format.selectorWidth v ++ rest).take r.format.selectorWidth
      = toBits r.format.selectorWidth v :=
    List.take_left' (length_toBits _ _)
  simp only [OpRow.matches, htake, ofBits_toBits hv, hf, hm, beq_self_eq_true, Bool.and_self]

/-- The same for a word that is nothing but its selector. -/
theorem matches_of_selector_only {r : OpRow} {p : Port} {v : Nat} (hf : p.format = r.format)
    (hv : v < 2 ^ r.format.selectorWidth) (hm : Nat.land v r.mask = r.value) :
    r.matches ⟨p, toBits r.format.selectorWidth v⟩ = true :=
  List.append_nil (toBits r.format.selectorWidth v) ▸ matches_of_selector [] hf hv hm

theorem RowMatch.setOffsetL (pos : Pos) : RowMatch.Statement (.setOffsetL pos) := fun _ =>
  ⟨⟨"SET_OFFSET_L", .cmd8, 0x40, 0xFF⟩, by decide, rfl, matches_of_selector (v := 0x40) _ rfl (by decide) rfl⟩

theorem RowMatch.setOffsetH (pos : Pos) : RowMatch.Statement (.setOffsetH pos) := fun _ =>
  ⟨⟨"SET_OFFSET_H", .cmd8, 0x41, 0xFF⟩, by decide, rfl, matches_of_selector (v := 0x41) _ rfl (by decide) rfl⟩

theorem RowMatch.setData (pos : Pos) : RowMatch.Statement (.setData pos) := fun _ =>
  ⟨⟨"SET_DATA", .cmd8, 0x42, 0xFF⟩, by decide, rfl, matches_of_selector (v := 0x42) _ rfl (by decide) rfl⟩

theorem RowMatch.getOffset (pos : Pos) : RowMatch.Statement (.getOffset pos) := fun _ =>
  ⟨⟨"GET_OFFSET", .cmd8, 0x43, 0xFF⟩, by decide, rfl, matches_of_selector (v := 0x43) _ rfl (by decide) rfl⟩

theorem RowMatch.readFlash (pos : Pos) : RowMatch.Statement (.readFlash pos) := fun _ =>
  ⟨⟨"READ_FLASH", .cmd8, 0x44, 0xFF⟩, by decide, rfl, matches_of_selector (v := 0x44) _ rfl (by decide) rfl⟩

theorem RowMatch.ping (pos : Pos) : RowMatch.Statement (.ping pos) := fun _ =>
  ⟨⟨"PING", .cmd8, 0x49, 0xFF⟩, by decide, rfl, matches_of_selector (v := 0x49) _ rfl (by decide) rfl⟩

theorem RowMatch.readCustom (pos : Pos) : RowMatch.Statement (.readCustom pos) := fun _ =>
  ⟨⟨"READ_CUSTOM", .cmd8, 0x4A, 0xFF⟩, by decide, rfl, matches_of_selector (v := 0x4A) _ rfl (by decide) rfl⟩

theorem RowMatch.setXpage (pos : Pos) : RowMatch.Statement (.setXpage pos) := fun _ =>
  ⟨⟨"SET_XPAGE", .cmd8, 0x4C, 0xFF⟩, by decide, rfl, matches_of_selector (v := 0x4C) _ rfl (by decide) rfl⟩

theorem RowMatch.writeFlash (pos : Pos) : RowMatch.Statement (.writeFlash pos) := fun _ =>
  ⟨⟨"WRITE_FLASH", .cmd8, 0x6E, 0xFF⟩, by decide, rfl, matches_of_selector (v := 0x6E) _ rfl (by decide) rfl⟩

theorem RowMatch.writeCustom (pos : Pos) : RowMatch.Statement (.writeCustom pos) := fun _ =>
  ⟨⟨"WRITE_CUSTOM", .cmd8, 0xA5, 0xFF⟩, by decide, rfl, matches_of_selector (v := 0xA5) _ rfl (by decide) rfl⟩

theorem RowMatch.sessionStart (cfg : Capabilities) : RowMatch.Statement (.sessionStart cfg) := fun _ =>
  ⟨⟨"SESSION_START", .txn, 0x0, 0x7⟩, by decide, rfl, matches_of_selector (v := 0x0) _ rfl (by decide) rfl⟩

theorem RowMatch.samplerate (rate : Rate) : RowMatch.Statement (.samplerate rate) := fun _ =>
  ⟨⟨"SAMPLERATE", .txn, 0x1, 0x7⟩, by decide, rfl, matches_of_selector (v := 0x1) _ rfl (by decide) rfl⟩

theorem RowMatch.sample (clk din dout msel : Level) (pos : Pos) : RowMatch.Statement (.sample clk din dout msel pos) := fun _ =>
  ⟨⟨"SAMPLE", .txn, 0x2, 0x7⟩, by decide, rfl, matches_of_selector (v := 0x2) _ rfl (by decide) rfl⟩

theorem RowMatch.edge (din dout : Level) (pos : Pos) : RowMatch.Statement (.edge din dout pos) := fun _ =>
  ⟨⟨"EDGE", .txn, 0x3, 0x7⟩, by decide, rfl, matches_of_selector (v := 0x3) _ rfl (by decide) rfl⟩

theorem RowMatch.endOfStream : RowMatch.Statement (.endOfStream) := fun _ =>
  ⟨⟨"END_OF_STREAM", .txn, 0x4, 0x7⟩, by decide, rfl, matches_of_selector_only rfl (by decide) rfl⟩

theorem RowMatch.reservedOp5 : RowMatch.Statement (.reservedOp5) := fun _ =>
  ⟨⟨"RESERVED_OP5", .txn, 0x5, 0x7⟩, by decide, rfl, matches_of_selector_only rfl (by decide) rfl⟩

theorem RowMatch.reservedOp6_7 (low : Level) : RowMatch.Statement (.reservedOp6_7 low) := fun _ =>
  ⟨⟨"RESERVED_OP6_7", .txn, 0x6, 0x6⟩, by decide, rfl, by cases low <;> exact matches_of_selector_only rfl (by decide) rfl⟩

theorem RowMatch.frameStart (pos : Pos) : RowMatch.Statement (.frameStart pos) := fun _ =>
  ⟨⟨"FRAME_START", .uop, 0x0, 0xF⟩, by decide, rfl, matches_of_selector (v := 0x0) _ rfl (by decide) rfl⟩

theorem RowMatch.shiftDin (din : Level) : RowMatch.Statement (.shiftDin din) := fun _ =>
  ⟨⟨"SHIFT.DIN", .uop, 0x0, 0x8⟩, by decide, rfl, matches_of_selector (v := 0x0) _ rfl (by decide) rfl⟩

theorem RowMatch.shiftDout (dout : Level) : RowMatch.Statement (.shiftDout dout) := fun _ =>
  ⟨⟨"SHIFT.DOUT", .uop, 0x0, 0x8⟩, by decide, rfl, matches_of_selector (v := 0x0) _ rfl (by decide) rfl⟩

theorem RowMatch.sync (pos : Pos) : RowMatch.Statement (.sync pos) := fun _ =>
  ⟨⟨"SYNC", .uop, 0x8, 0xF⟩, by decide, rfl, matches_of_selector (v := 0x8) _ rfl (by decide) rfl⟩

theorem RowMatch.recDataIn (start stop : Pos) (value : Byte) : RowMatch.Statement (.recDataIn start stop value) := fun _ =>
  ⟨⟨"REC.DATA_IN", .record, 0x0, 0x7⟩, by decide, rfl, matches_of_selector (v := 0x0) _ rfl (by decide) rfl⟩

theorem RowMatch.recCommand (start stop : Pos) (value : Byte) : RowMatch.Statement (.recCommand start stop value) := fun _ =>
  ⟨⟨"REC.COMMAND", .record, 0x2, 0x7⟩, by decide, rfl, matches_of_selector (v := 0x2) _ rfl (by decide) rfl⟩

theorem RowMatch.recDataOut (start stop : Pos) (value : Byte) : RowMatch.Statement (.recDataOut start stop value) := fun _ =>
  ⟨⟨"REC.DATA_OUT", .record, 0x1, 0x7⟩, by decide, rfl, matches_of_selector (v := 0x1) _ rfl (by decide) rfl⟩

theorem RowMatch.recSync (stop : Pos) : RowMatch.Statement (.recSync stop) := fun _ =>
  ⟨⟨"REC.SYNC", .record, 0x3, 0x7⟩, by decide, rfl, matches_of_selector (v := 0x3) _ rfl (by decide) rfl⟩

theorem RowMatch.recWarning : RowMatch.Statement (.recWarning) := fun _ =>
  ⟨⟨"REC.WARNING", .record, 0x4, 0x7⟩, by decide, rfl, matches_of_selector_only rfl (by decide) rfl⟩

end Sys2Proof.Laws
end

