-- ==== Sys2Proof/Laws/Run.lean ====
section
/-! SUPPORT. Sequences of operations and runs: how they are put together from their parts. -/

namespace Sys2Proof.Machine

/-! ### Sequences of operations -/

@[simp] theorem execAll_nil (s : State) : execAll [] s = .next s := rfl

/-- An operation with a next state, then the rest from there. -/
theorem execAll_cons {i : Instr} {s t : State} (h : exec i s = .next t) (rest : List Instr) :
    execAll (i :: rest) s = execAll rest t := by
  simp [execAll, h]

/-- A sequence with a next state, then the rest from there. -/
theorem execAll_append {front : List Instr} {s t : State} (h : execAll front s = .next t) (rest : List Instr) :
    execAll (front ++ rest) s = execAll rest t := by
  induction front generalizing s with
  | nil => rw [execAll_nil] at h; injection h with h; subst h; rfl
  | cons i front ih =>
    cases hi : exec i s with
    | next u => rw [execAll_cons hi] at h; rw [List.cons_append, execAll_cons hi, ih h]
    | fault r => simp [execAll, hi] at h
    | refused r => simp [execAll, hi] at h

/-! ### Runs -/

@[simp] theorem run_zero (source : Source) (s : State) : run source 0 s = .next s := rfl

/-- One more moment of a run: the source issues, then the block steps. -/
theorem run_succ {source : Source} {n : Nat} {s t : State} (h : run source n s = .next t) :
    run source (n + 1) s = step (t.feed (source n)) := by
  simp [run, h]

/-- A moment with an empty input at which the source issues nothing (R174). -/
theorem step_feed_none {t : State} (h : t.input = []) : step (t.feed none) = .next t := by
  simp [step, State.takeInput, h]

/-- A moment with an empty input at which the source issues a transaction: the block executes it at once (R59). -/
theorem step_feed_some {t : State} {word : BitString} {i : Instr} (h : t.input = [])
    (hd : decode ⟨.txn, word⟩ = .ok i) : step (t.feed (some word)) = exec i t := by
  obtain ⟨⟩ := t
  subst h
  simp [step, State.takeInput, State.feed, hd]

/-- A source that has ceased, with its transactions all taken, leaves the block as it is (R176). -/
theorem run_of_ceases {source : Source} {n : Nat} {s t : State} (h : run source n s = .next t) (ht : t.input = [])
    (hc : source.Ceases n) (m : Nat) : run source (n + m) s = .next t := by
  induction m with
  | zero => exact h
  | succ m ih => rw [← Nat.add_assoc, run_succ ih, hc _ (Nat.le_add_right n m), step_feed_none ht]

end Sys2Proof.Machine
end

