-- ==== Sys2Proof/Tests/Slice0.lean ====
section
/-! SUPPORT. Tests: the checks of WellFormed, words written out bit by bit from the spec's formats, single steps whose
results are those of the spec's test vectors, and a witness for the hypotheses of every statement that has some. -/

namespace Sys2Proof.Tests

open Sys2Proof.Machine Sys2Proof.Statements

/-! ### Helpers -/

/-- A bit string written as zeros and ones, most significant bit first. -/
def bits (l : List Nat) : BitString := l.map fun n => n == 1

/-- The next state of an outcome. -/
def next (o : Host.Outcome State Fault Refusal) : Option State :=
  match o with
  | .next s => some s
  | .fault _ => none
  | .refused _ => none

/-- The reason of a refusal. -/
def refusal (o : Host.Outcome State Fault Refusal) : Option Refusal :=
  match o with
  | .next _ => none
  | .fault _ => none
  | .refused r => some r

/-- The operation a word decodes to. -/
def decoded (p : Port) (l : List Nat) : Option Instr := (decode ⟨p, bits l⟩).toOption

/-- Why a word is rejected. -/
def rejected (p : Port) (l : List Nat) : Option DecodeError :=
  match decode ⟨p, bits l⟩ with
  | .ok _ => none
  | .error why => some why

/-- A running session at a slot, with the accumulators and the data-out flag given. -/
def running (slot : Slot) (din dout : Byte) (gate : Level) : State :=
  { State.reset with
    phase := .run, hasDout := gate, bitSlot := slot, dinAcc := din, doutAcc := dout, startPos := some 1,
    lastPos := some 2 }

/-- A session aborted with the clock missing. -/
def aborted : State := { State.reset with phase := .fault, faultCause := 0b01 }

/-- Both open widths are 8. -/
def widths : Widths := ⟨8, 8⟩

/-! ### WellFormed: an ill-formed term for each check -/
theorem test_command_position_must_fit :
    (∀ c : Command, c ∈ commandTable.map (·.2) → (c.toInstr 256).wellFormed widths = false) := by decide

theorem test_transaction_fields_must_fit :
    Instr.wellFormed widths (.samplerate 256) = false ∧
    Instr.wellFormed widths (.sample true true true true 256) = false ∧
    Instr.wellFormed widths (.edge true true 256) = false := by decide

theorem test_micro_operation_position_must_fit :
    Instr.wellFormed widths (.frameStart 256) = false ∧ Instr.wellFormed widths (.sync 256) = false := by decide

theorem test_record_start_must_fit :
    Instr.wellFormed widths (.recDataIn 256 0 0) = false ∧ Instr.wellFormed widths (.recCommand 256 0 0) = false ∧
    Instr.wellFormed widths (.recDataOut 256 0 0) = false := by decide

theorem test_record_stop_must_fit :
    Instr.wellFormed widths (.recDataIn 0 256 0) = false ∧ Instr.wellFormed widths (.recCommand 0 256 0) = false ∧
    Instr.wellFormed widths (.recDataOut 0 256 0) = false ∧ Instr.wellFormed widths (.recSync 256) = false := by decide

theorem test_largest_operands_are_well_formed :
    Instr.wellFormed widths (.edge true true 255) = true ∧ Instr.wellFormed widths (.samplerate 255) = true ∧
    Instr.wellFormed widths (.recDataIn 255 255 0xFF) = true := by decide

/-! ### Decoding: the words of the formats, bit by bit -/

theorem test_decode_sessionStart : decoded .txn [0, 0, 0, 1, 0, 1, 0] = some (.sessionStart ⟨true, false, true, false⟩) := by decide

theorem test_decode_samplerate : decoded .txn [0, 0, 1, 1, 1, 0] = some (.samplerate 6) := by decide

theorem test_decode_sample : decoded .txn [0, 1, 0, 0, 1, 0, 1, 1, 0, 0, 1] = some (.sample false true false true 9) := by decide

theorem test_decode_edge : decoded .txn [0, 1, 1, 0, 1, 1, 0, 0] = some (.edge false true 4) := by decide

theorem test_decode_endOfStream : decoded .txn [1, 0, 0] = some (.endOfStream) := by decide

theorem test_decode_reservedOp5 : decoded .txn [1, 0, 1, 1, 1] = some (.reservedOp5) := by decide

theorem test_decode_reservedOp6 : decoded .txn [1, 1, 0] = some (.reservedOp6_7 false) := by decide

theorem test_decode_reservedOp7 : decoded .txn [1, 1, 1, 0] = some (.reservedOp6_7 true) := by decide

theorem test_decode_setOffsetL : decoded .cmd8 [0, 1, 0, 0, 0, 0, 0, 0, 1, 0] = some (.setOffsetL 2) := by decide

theorem test_decode_setOffsetH : decoded .cmd8 [0, 1, 0, 0, 0, 0, 0, 1, 1, 0] = some (.setOffsetH 2) := by decide

theorem test_decode_setData : decoded .cmd8 [0, 1, 0, 0, 0, 0, 1, 0, 1, 0] = some (.setData 2) := by decide

theorem test_decode_getOffset : decoded .cmd8 [0, 1, 0, 0, 0, 0, 1, 1, 1, 0] = some (.getOffset 2) := by decide

theorem test_decode_readFlash : decoded .cmd8 [0, 1, 0, 0, 0, 1, 0, 0, 1, 0] = some (.readFlash 2) := by decide

theorem test_decode_ping : decoded .cmd8 [0, 1, 0, 0, 1, 0, 0, 1, 1, 0] = some (.ping 2) := by decide

theorem test_decode_readCustom : decoded .cmd8 [0, 1, 0, 0, 1, 0, 1, 0, 1, 0] = some (.readCustom 2) := by decide

theorem test_decode_setXpage : decoded .cmd8 [0, 1, 0, 0, 1, 1, 0, 0, 1, 0] = some (.setXpage 2) := by decide

theorem test_decode_writeFlash : decoded .cmd8 [0, 1, 1, 0, 1, 1, 1, 0, 1, 0] = some (.writeFlash 2) := by decide

theorem test_decode_writeCustom : decoded .cmd8 [1, 0, 1, 0, 0, 1, 0, 1, 1, 0] = some (.writeCustom 2) := by decide

theorem test_decode_frameStart : decoded .uopFrameStart [0, 0, 0, 0, 1, 1] = some (.frameStart 3) := by decide

theorem test_decode_shiftDin : decoded .uopShiftDin [0, 1, 1, 1, 1] = some (.shiftDin true) := by decide

theorem test_decode_shiftDout : decoded .uopShiftDout [0, 1, 0, 1, 1] = some (.shiftDout true) := by decide

theorem test_decode_sync : decoded .uopSync [1, 0, 0, 0, 1, 0, 0] = some (.sync 4) := by decide

theorem test_decode_recDataIn : decoded .record [0, 0, 0, 0, 1, 1, 0, 0, 1, 0, 0, 0, 1, 0, 1] = some (.recDataIn 1 2 0x45) := by decide

theorem test_decode_recDataOut : decoded .record [0, 0, 1, 0, 1, 1, 0, 0, 0, 0, 0, 0, 1, 1, 1] = some (.recDataOut 1 2 0x07) := by decide

theorem test_decode_recCommand : decoded .record [0, 1, 0, 0, 1, 1, 0, 0, 1, 0, 0, 1, 0, 0, 1] = some (.recCommand 1 2 0x49) := by decide

theorem test_decode_recSync : decoded .record [0, 1, 1, 1, 0, 1, 0, 0, 0, 0, 0, 0, 0, 0, 0] = some (.recSync 2) := by decide

theorem test_decode_recWarning : decoded .record [1, 0, 0] = some (.recWarning) := by decide

/-- R83, R85, R134, R144: what is not an encoding is rejected, each by name. -/
theorem test_decode_rejects :
    rejected .txn [0, 1] = some .noSelector ∧ rejected .txn [0, 0, 0, 1, 1, 1] = some .wrongFields ∧
    rejected .txn [1, 0, 0, 1] = some .wrongFields ∧ rejected .txn [0, 1, 1, 1] = some .wrongFields ∧
    rejected .cmd8 [0, 1, 0, 0, 0, 1, 0, 1, 0] = some .noCommand ∧
    rejected .cmd8 [1, 1, 0, 0, 0, 0, 0, 0] = some .noCommand ∧
    rejected .uopFrameStart [0, 0, 0, 1, 0] = some .notSelected ∧
    rejected .uopShiftDin [1, 0, 0, 0, 1] = some .notSelected ∧
    rejected .uopShiftDout [0, 0, 0, 0, 1, 1] = some .wrongFields ∧
    rejected .uopSync [0, 1, 1, 1, 0] = some .notSelected ∧ rejected .record [1, 0, 1, 0] = some .unusedCategory ∧
    rejected .record [0, 0, 0, 1] = some .wrongFields ∧
    rejected .record [0, 1, 1, 1, 0, 0, 0, 0, 0, 0, 0, 0, 0] = some .malformedSync := by decide

/-- The encoder writes the words of the formats R72, R75 and R74. -/
theorem test_encode_words :
    encode ⟨4, 3⟩ (.samplerate 6) = ⟨.txn, bits [0, 0, 1, 1, 1, 0]⟩ ∧
    encode ⟨3, 3⟩ (.edge false true 4) = ⟨.txn, bits [0, 1, 1, 0, 1, 1, 0, 0]⟩ ∧
    encode ⟨2, 3⟩ (.recDataOut 1 2 0x07) = ⟨.record, bits [0, 0, 1, 0, 1, 1, 0, 0, 0, 0, 0, 0, 1, 1, 1]⟩ := by decide

/-- The table's numbers of the transactions and of SYNC. -/
theorem test_table_words_of_transactions :
    decodeTableWord 8 0x0 = some (.sessionStart ⟨false, false, false, false⟩) ∧
    decodeTableWord 8 0x1 = some (.samplerate 0) ∧
    decodeTableWord 8 0x2 = some (.sample false false false false 0) ∧
    decodeTableWord 8 0x3 = some (.edge false false 0) ∧ decodeTableWord 8 0x4 = some .endOfStream ∧
    decodeTableWord 8 0x5 = some .reservedOp5 ∧ decodeTableWord 8 0x6 = some (.reservedOp6_7 false) ∧
    decodeTableWord 8 0x8 = some (.sync 0) := by decide

/-- The table's numbers of the commands, and of a byte that is none (V-C14). -/
theorem test_table_words_of_commands :
    (opcodes.map fun b => decodeTableWord 8 b.toNat) =
      [some (.setOffsetL 0), some (.setOffsetH 0), some (.setData 0), some (.getOffset 0), some (.readFlash 0),
       some (.ping 0), some (.readCustom 0), some (.setXpage 0), some (.writeFlash 0), some (.writeCustom 0)] ∧
    decodeTableWord 8 0x45 = none := by decide

/-- A placed transaction is the next step: from reset, `START 0 0 0 0` faults with both causes (V-X3). -/
theorem test_placed_transaction_runs :
    (next (step (State.reset.withFetchWord 8 0x0))).map State.faultPort = some (true, 0b11) := by decide

/-- A placed data-in byte is classified by the next step. -/
theorem test_placed_command_runs :
    (next (step (State.reset.withFetchWord 8 0x49))).map State.output =
      some [⟨.dataIn, 0, 0, 0x49⟩, ⟨.command, 0, 0, 0x49⟩, ⟨.sync, 0, 0, 0⟩] := by decide

/-- A placed SYNC slot finalises in the next step. -/
theorem test_placed_sync_runs :
    (next (step (State.reset.withFetchWord 8 0x8))).map State.output =
      some [⟨.dataIn, 0, 0, 0⟩, ⟨.sync, 0, 0, 0⟩] := by decide

/-! ### The Command Table -/

/-- V-C11 to V-C23: the neighbours, the reversals and the complements are no commands. -/
theorem test_neighbours_miss :
    (([0x00, 0xFF, 0x3F, 0x45, 0x46, 0x47, 0x48, 0x4B, 0x4D, 0x6D, 0x6F, 0xA4, 0xA6, 0x76, 0x02, 0x82, 0x5A, 0xC0] :
      List Byte).filterMap cmdRom) = [] := by decide

theorem test_setOffsetL_classifies :
    (next (exec (.setOffsetL 10) (running 8 0x40 0 false))).map State.output = some [⟨.command, 1, 10, 0x40⟩] := by decide

theorem test_setOffsetH_classifies :
    (next (exec (.setOffsetH 10) (running 8 0x41 0 false))).map State.output = some [⟨.command, 1, 10, 0x41⟩] := by decide

theorem test_setData_classifies :
    (next (exec (.setData 10) (running 8 0x42 0 false))).map State.output = some [⟨.command, 1, 10, 0x42⟩] := by decide

theorem test_getOffset_classifies :
    (next (exec (.getOffset 10) (running 8 0x43 0 false))).map State.output = some [⟨.command, 1, 10, 0x43⟩] := by decide

theorem test_readFlash_classifies :
    (next (exec (.readFlash 10) (running 8 0x44 0 false))).map State.output = some [⟨.command, 1, 10, 0x44⟩] := by decide

theorem test_ping_classifies :
    (next (exec (.ping 10) (running 8 0x49 0 false))).map State.output = some [⟨.command, 1, 10, 0x49⟩] := by decide

theorem test_readCustom_classifies :
    (next (exec (.readCustom 10) (running 8 0x4A 0 false))).map State.output = some [⟨.command, 1, 10, 0x4A⟩] := by decide

theorem test_setXpage_classifies :
    (next (exec (.setXpage 10) (running 8 0x4C 0 false))).map State.output = some [⟨.command, 1, 10, 0x4C⟩] := by decide

theorem test_writeFlash_classifies :
    (next (exec (.writeFlash 10) (running 8 0x6E 0 false))).map State.output = some [⟨.command, 1, 10, 0x6E⟩] := by decide

theorem test_writeCustom_classifies :
    (next (exec (.writeCustom 10) (running 8 0xA5 0 false))).map State.output = some [⟨.command, 1, 10, 0xA5⟩] := by decide

/-- R83: a byte that differs from the opcode is not this command. -/
theorem test_ping_needs_its_byte : next (exec (.ping 10) (running 8 0x4A 0 false)) = some (running 8 0x4A 0 false) := by
  decide

/-! ### The byte assembler -/

/-- V-A7: the first edge of a frame. -/
theorem test_edge_first :
    next (exec (.edge true true 7) (running 0 0 0 true)) =
      some { running 1 0x01 0x01 true with startPos := some 7, lastPos := some 7 } := by decide

/-- V-A11: the sync edge, its levels ignored. -/
theorem test_edge_sync :
    next (exec (.edge true true 10) (running 8 0x49 0x00 false)) =
      some { running 0 0 0 false with
        lastPos := some 10
        output := [⟨.dataIn, 1, 10, 0x49⟩, ⟨.command, 1, 10, 0x49⟩, ⟨.sync, 10, 10, 0⟩] } := by decide

/-- V-A9: the eighth data edge does not finalise. -/
theorem test_edge_eighth_does_not_finalise :
    next (exec (.edge true true 9) (running 7 0x7F 0x7F true)) =
      some { running 8 0xFF 0xFF true with lastPos := some 9 } := by decide

theorem test_frameStart_records_position :
    next (exec (.frameStart 100) (running 0 0 0 false)) =
      some { running 0 0 0 false with startPos := some 100 } := by decide

/-- V-A8, the data-in half. -/
theorem test_shiftDin_shifts_left :
    next (exec (.shiftDin true) (running 5 0x12 0x05 true)) = some (running 5 0x25 0x05 true) := by decide

/-- V-A8, the data-out half. -/
theorem test_shiftDout_sets_bit_five :
    next (exec (.shiftDout true) (running 5 0x12 0x05 true)) = some (running 6 0x12 0x25 true) := by decide

/-- V-A10, the data-out half with that wire not configured. -/
theorem test_shiftDout_is_gated :
    next (exec (.shiftDout true) (running 7 0x24 0x00 false)) = some (running 8 0x24 0x00 false) := by decide

/-- R125: the positions are those of the first and of the ninth edge. -/
theorem test_sync_emits_and_clears :
    next (exec (.sync 90) (running 8 0x45 0 false)) =
      some { running 0 0 0 false with output := [⟨.dataIn, 1, 90, 0x45⟩, ⟨.sync, 90, 90, 0⟩] } := by decide

/-- V-A2: the two bit orders on the same levels, the levels at the sync edge ignored. -/
theorem test_two_bit_orders :
    (next (execAll
      (started true :: nineEdges
        (fun j => [true, true, false, true, false, false, true, false].getD j.val false)
        (fun j => [true, true, false, true, false, false, true, false].getD j.val false) (fun j => j.val) true true)
      State.reset)).map State.output =
      some [⟨.dataIn, 0, 8, 0xD2⟩, ⟨.dataOut, 0, 8, 0x4B⟩, ⟨.sync, 8, 8, 0⟩] := by decide

/-! ### The records -/

theorem test_recDataIn_appends :
    (next (exec (.recDataIn 10 90 0x45) State.reset)).map State.output = some [⟨.dataIn, 10, 90, 0x45⟩] := by decide

theorem test_recCommand_only_for_an_opcode :
    (next (exec (.recCommand 10 90 0x49) State.reset)).map State.output = some [⟨.command, 10, 90, 0x49⟩] ∧
    next (exec (.recCommand 10 90 0x45) State.reset) = some State.reset := by decide

theorem test_recDataOut_only_when_configured :
    (next (exec (.recDataOut 10 90 0x07) (running 8 0 0 true))).map State.output = some [⟨.dataOut, 10, 90, 0x07⟩] ∧
    next (exec (.recDataOut 10 90 0x07) (running 8 0 0 false)) = some (running 8 0 0 false) := by decide

theorem test_recSync_has_empty_span :
    (next (exec (.recSync 90) State.reset)).map State.output = some [⟨.sync, 90, 90, 0⟩] := by decide

theorem test_recWarning_is_never_emitted : next (exec .recWarning State.reset) = some State.reset := by decide

/-- V-E5: a data-out 0x40 is not classified. -/
theorem test_burst_of_four :
    (emitFrame 0 8 0xA5 0x40 true State.reset).output =
      [⟨.dataIn, 0, 8, 0xA5⟩, ⟨.command, 0, 8, 0xA5⟩, ⟨.dataOut, 0, 8, 0x40⟩, ⟨.sync, 8, 8, 0⟩] := by decide

/-- V-E5, V-E6: the display strings. -/
theorem test_display_strings :
    display specRules .dataIn 0x0A = some ["@0A"] ∧ display specRules .dataOut 0x40 = some ["@40"] ∧
    display specRules .command 0xA5 = some ["WRITE_CUSTOM (0xA5)", "WRITE_CUSTOM", "WRI"] ∧
    display specRules .command 0x45 = none := by decide

/-! ### The session operations -/

/-- V-D2. -/
theorem test_sessionStart_runs :
    next (exec (.sessionStart ⟨true, true, true, false⟩) State.reset) =
      some { State.reset with phase := .run, hasDout := true, initCount := 1 } := by decide

/-- V-D18, after a frame of an earlier session: the cause is the new one and the session registers are cleared. -/
theorem test_sessionStart_faults :
    next (exec (.sessionStart ⟨true, false, true, true⟩) { running 5 0x1F 0 true with prevClk := some true }) =
      some { State.reset with phase := .fault, faultCause := 0b10, initCount := 1 } := by decide

/-- V-D20. -/
theorem test_samplerate_stores :
    next (exec (.samplerate 48000) (running 3 0x05 0 false)) =
      some { running 3 0x05 0 false with samplerate := some 48000 } := by decide

/-- V-D6: the second sample falls; the mode-select level is not read (V-D9). -/
theorem test_sample_falls :
    next (exec (.sample false true false true 1) { running 0 0 0 false with prevClk := some true }) =
      some { running 1 0x01 0 false with startPos := some 1, lastPos := some 1, prevClk := some false } := by decide

/-- V-D5: the first sample of a session is never a fall. -/
theorem test_sample_first_is_no_fall :
    next (exec (.sample false true false false 0) (running 0 0 0 false)) =
      some { running 0 0 0 false with prevClk := some false } := by decide

/-- V-D13: the byte is dropped. -/
theorem test_endOfStream_drops_the_frame :
    next (exec .endOfStream (running 8 0x49 0 false)) = some { running 8 0x49 0 false with phase := .off } := by decide

/-- V-D16. -/
theorem test_endOfStream_keeps_the_fault : next (exec .endOfStream aborted) = some aborted := by decide

/-- V-D19, with `op` 5 and 6. -/
theorem test_reserved_ops_are_ignored :
    next (exec .reservedOp5 (running 3 0x05 0 true)) = some (running 3 0x05 0 true) ∧
    next (exec (.reservedOp6_7 false) (running 3 0x05 0 true)) = some (running 3 0x05 0 true) := by decide

/-- V-D10: before a session an edge is ignored; the step takes it from the input. -/
theorem test_step_takes_the_edge :
    next (step { State.reset with input := [bits [0, 1, 1, 1, 1, 0], bits [1, 0, 0]] }) =
      some { State.reset with input := [bits [1, 0, 0]] } := by decide

theorem test_step_refuses_a_malformed_word :
    refusal (step { State.reset with input := [bits [1, 0, 0, 1]] }) =
      some (.malformedTransaction .wrongFields) := by decide

/-- R95: at `p = 0` the first sample of a CLOCKFALL has position 0 (log entry 16). -/
theorem test_clockFall_at_zero :
    clockFall true false 0 = [.sample true true false false 0, .sample false true false false 0] := by decide

/-- S1 as an infinite run: an EDGE with both levels 0 at every moment, without end; at its eighteenth the second burst. -/
theorem test_endless_run_goes_on :
    ((next (run (fun n => some (bits [0, 1, 1, 0, 0] ++ toBits 5 n)) 18 (running 0 0 0 false))).map State.output) =
      some [⟨.dataIn, 0, 8, 0⟩, ⟨.sync, 8, 8, 0⟩, ⟨.dataIn, 9, 17, 0⟩, ⟨.sync, 17, 17, 0⟩] := by decide

/-- R176: a source that ceases without an END_OF_STREAM leaves the frame as it is, and nothing is owed. -/
theorem test_ceased_run_owes_nothing :
    next (run (fun n => if n < 1 then some (bits [0, 1, 1, 1, 1, 1, 1, 1]) else none) 4 (running 0 0 0 true)) =
      some { running 1 0x01 0x01 true with startPos := some 7, lastPos := some 7 } := by decide

/-! ### Witnesses: the hypotheses of each statement, met together -/

theorem witness_EveryCommandLabelsItsFrame :
    (∀ b ∈ opcodes, SyncDue (running 8 b 0 false) ∧ (running 8 b 0 false).dinAcc = b) ∧
    ∀ j : Fin 8, ([true, false, true, false, false, true, false, true].getD j.val false) = (0xA5#8).getLsbD (7 - j.val) := 
  ⟨fun _ _ => ⟨⟨rfl, rfl⟩, rfl⟩, by decide⟩

theorem witness_UnmatchedByteEmitsNoCommand :
    SyncDue (running 8 0x45 0 false) ∧ (0x45 : Byte) ∉ opcodes ∧ SyncDue (running 8 0xA5 0xFF true) ∧ (0xA5 : Byte) ∈ opcodes := 
  ⟨⟨rfl, rfl⟩, by decide, ⟨rfl, rfl⟩, by decide⟩

theorem witness_DataOutByteIsNeverClassified :
    SyncDue (running 8 0x45 0x40 true) := ⟨rfl, rfl⟩

theorem witness_FramesAreClassifiedAlone :
    (running 0 0 0 true).phase = .run ∧ (running 0 0 0 true).bitSlot = 0 := by decide

theorem witness_CommandTableHasTenDistinctEntries :
    cmdRom 0x40 = some .setOffsetL ∧ cmdRom 0xA5 = some .writeCustom ∧
    Command.setOffsetL.index = Command.setOffsetL.index ∧ (0x40 : Byte) ≠ 0xA5 := by decide

theorem witness_UnselectedCommandChangesNothing :
    ¬ (SyncDue (running 8 0x45 0 false) ∧ cmdRom (running 8 0x45 0 false).dinAcc = some .ping) ∧
    ¬ (SyncDue (running 7 0x49 0 false) ∧ cmdRom (running 7 0x49 0 false).dinAcc = some .ping) := 
  ⟨fun h => absurd h.2 (by decide), fun h => absurd h.1.2 (by decide)⟩

theorem witness_EdgeFollowsItsPseudocode :
    State.reset.phase ≠ .run ∧ aborted.phase ≠ .run ∧
    ((running 0 0 0 true).phase = .run ∧ (running 0 0 0 true).bitSlot.val = 0) ∧
    ((running 1 1 1 true).phase = .run ∧ 0 < (running 1 1 1 true).bitSlot.val ∧ (running 1 1 1 true).bitSlot.val < 8) ∧
    (0 < (running 7 1 1 true).bitSlot.val ∧ (running 7 1 1 true).bitSlot.val < 8) ∧ SyncDue (running 8 1 1 true) := 
  ⟨by decide, by decide, by decide, by decide, by decide, ⟨rfl, rfl⟩⟩

theorem witness_FrameStartRecordsThePosition :
    (running 0 0 0 true).phase = .run ∧ (running 0 0 0 true).bitSlot = 0 ∧ ReachableInv (running 0 0 0 true) := by decide

theorem witness_ShiftDataInDoublesAndAdds :
    (DataDue (running 0 0 0 true) ∧ ReachableInv (running 0 0 0 true)) ∧
    (DataDue (running 7 0x7F 0x7F true) ∧ ReachableInv (running 7 0x7F 0x7F true)) ∧
    ((running 5 0x12 0 true).phase = .run ∧ (running 5 0x12 0 true).dinAcc = 0x12 ∧ (running 5 0x12 0 true).bitSlot = 5) := 
  ⟨⟨⟨rfl, by decide⟩, by decide⟩, ⟨⟨rfl, by decide⟩, by decide⟩, by decide⟩

theorem witness_ShiftDataOutSetsTheSlotBit :
    (DataDue (running 0 0 0 false) ∧ (running 0 0 0 false).hasDout = false ∧ ReachableInv (running 0 0 0 false)) ∧
    (DataDue (running 7 0x7F 0x7F true) ∧ ReachableInv (running 7 0x7F 0x7F true)) ∧
    ((running 5 0 0x05 true).phase = .run ∧ (running 5 0 0x05 true).hasDout = true ∧
      (running 5 0 0x05 true).doutAcc = 0x05 ∧ (running 5 0 0x05 true).bitSlot = 5) ∧
    ((running 5 0 0 false).phase = .run ∧ (running 5 0 0 false).hasDout = false ∧ (running 5 0 0 false).doutAcc = 0 ∧
      (running 5 0 0 false).bitSlot = 5) := 
  ⟨⟨⟨rfl, by decide⟩, by decide⟩, ⟨⟨rfl, by decide⟩, by decide⟩, by decide, by decide⟩

theorem witness_SyncEmitsTheBurstAndClears :
    SyncDue (running 8 0xA5 0 true) ∧ SyncDue { running 8 0x45 0 false with startPos := some 10 } ∧
    ({ running 8 0x45 0 false with startPos := some 10 } : State).startPos = some 10 ∧
    ({ running 8 0x45 0 false with startPos := some 10 } : State).dinAcc = 0x45 ∧
    ({ running 8 0x45 0 false with startPos := some 10 } : State).hasDout = false := 
  ⟨⟨rfl, rfl⟩, ⟨rfl, rfl⟩, rfl, rfl, rfl⟩

theorem witness_EdgeRunsTheSelectedMicroOperations :
    (∀ k : Slot, (running k 0 0 true).phase = .run) ∧ (running 0 0 0 true).bitSlot.val = 0 ∧
    (0 < (running 1 0 0 true).bitSlot.val ∧ (running 1 0 0 true).bitSlot.val < 8) ∧
    (0 < (running 7 0 0 true).bitSlot.val ∧ (running 7 0 0 true).bitSlot.val < 8) ∧ (running 8 0 0 true).bitSlot.val = 8 := by decide

theorem witness_DataEdgeNeverFinalises :
    DataDue (running 0 0 0 true) ∧ DataDue (running 7 0x7F 0x7F true) ∧ (running 0 0 0 true).phase = .run ∧
    (running 0 0 0 true).bitSlot = 0 := 
  ⟨⟨rfl, by decide⟩, ⟨rfl, by decide⟩, by decide⟩

theorem witness_SyncEdgeLevelsHaveNoEffect :
    SyncDue { running 8 0x49 0x80 true with prevClk := some true } ∧
    ({ running 8 0x49 0x80 true with prevClk := some true } : State).prevClk = some true := 
  ⟨⟨rfl, rfl⟩, rfl⟩

theorem witness_PositionsAreOnlyCopied :
    (∀ k : Slot, (running k 0 0 true).phase = .run) ∧ (running 0 0 0 true).bitSlot = 0 ∧ (running 1 0 0 true).bitSlot ≠ 0 ∧
    (running 8 0 0 true).bitSlot = 8 ∧ (SyncDue (running 8 0 0 true) → (running 8 0 0 true).startPos ≠ none) := 
  ⟨by decide, by decide, by decide, by decide, fun _ => by decide⟩

theorem witness_UnfinishedFrameIsDropped :
    ((running 8 0x49 0 false).phase = .run ∧ NoStart [.edge true true 1, .samplerate 5, .endOfStream]) ∧
    (running 0 0 0 true).phase = .run ∧ (running 0 0 0 true).bitSlot = 0 ∧ 8 ≤ 8 := 
  ⟨⟨by decide, by simp [NoStart, isTransaction]⟩, by decide⟩

theorem witness_NineEdgesAssembleBothBytes :
    ((running 0 0 0 true).phase = .run ∧ (running 0 0 0 true).bitSlot = 0 ∧ (running 0 0 0 true).hasDout = true) ∧
    (running 0 0 0 false).phase = .run ∧ (running 0 0 0 false).bitSlot = 0 ∧ (running 0 0 0 false).hasDout = false := by decide

theorem witness_FrameDeliversItsBytes :
    ((running 0 0 0 true).phase = .run ∧ (running 0 0 0 true).bitSlot = 0) ∧
    (running 0 0 0 false).phase = .run ∧ (running 0 0 0 false).bitSlot = 0 := by decide

theorem witness_EdgeCountFixesTheFraming :
    (running 8 0x45 0 true).phase = .run ∧ (running 8 0x45 0 true).hasDout = true ∧ (running 0 0 0 false).phase = .run := by decide

theorem witness_RecordsEmitUnderTheirConditions :
    (0x49 : Byte) ∈ opcodes ∧ SyncDue (running 8 0x49 0x80 true) ∧ SyncDue (running 8 0x45 0 false) := 
  ⟨by decide, ⟨rfl, rfl⟩, ⟨rfl, rfl⟩⟩

theorem witness_BurstIsTheFourRecordsInOrder :
    SyncDue (running 8 0 0 false) ∧ SyncDue { running 8 0x49 0x80 true with startPos := some 10 } ∧
    ({ running 8 0x49 0x80 true with startPos := some 10 } : State).startPos = some 10 ∧
    ({ running 8 0x49 0x80 true with startPos := some 10 } : State).dinAcc = 0x49 ∧
    ({ running 8 0x49 0x80 true with startPos := some 10 } : State).doutAcc = 0x80 ∧
    ({ running 8 0x49 0x80 true with startPos := some 10 } : State).hasDout = true := 
  ⟨⟨rfl, rfl⟩, ⟨rfl, rfl⟩, rfl, rfl, rfl, rfl⟩

theorem witness_SyncRecordClosesTheBurst :
    SyncDue (running 8 0x49 0x80 true) := ⟨rfl, rfl⟩

theorem witness_WarningIsNeverEmitted :
    ∃ t, exec (.edge true true 10) (running 8 0x49 0 false) = .next t ∧ t.output.length = 3 ∧
      ∀ r ∈ (running 8 0x49 0 false).output, r.cat ≠ .warning := 
  ⟨_, rfl, by decide, by decide⟩

theorem witness_OnlySyncEdgesEmit :
    (isTransaction (.edge true true 10) = true ∧ ∃ t, exec (.edge true true 10) (running 8 0x49 0 false) = .next t ∧
      t.output ≠ (running 8 0x49 0 false).output) ∧
    isTransaction (.sample false true true true 10) = true ∧
      ∃ t, exec (.sample false true true true 10) { running 8 0x49 0 false with prevClk := some true } = .next t ∧
        t.output ≠ ({ running 8 0x49 0 false with prevClk := some true } : State).output := 
  ⟨⟨rfl, _, rfl, by decide⟩, rfl, _, rfl, by decide⟩

theorem witness_UnconfiguredDataOutLeavesNoTrace :
    (running 5 0 0 false).hasDout = false := by decide

theorem witness_DisplayStringsFollowTheirShapes :
    (0x40 : Byte) ∈ opcodes ∧ (0xA5 : Byte) ∈ opcodes ∧ (0xFF : Byte) ∉ opcodes ∧
    ∃ t, exec (.edge true true 10) (running 8 0x49 0x80 true) = .next t ∧ ∃ r ∈ t.output, r.cat = .dataOut := 
  ⟨by decide, by decide, by decide, _, rfl, by decide⟩

theorem witness_HexSpellingIsTwoDistinctDigits :
    specHex2 0xA5 = specHex2 0xA5 ∧ specHex2 0xA5 ≠ specHex2 0x5A := by decide

theorem witness_MissingRequiredWireFaults :
    (⟨false, true, true, true⟩ : Capabilities).hasClk = false ∧ (⟨true, false, true, true⟩ : Capabilities).hasDin = false := by decide

theorem witness_GoodStartInitialisesTheSession :
    (⟨true, true, true, true⟩ : Capabilities).hasClk = true ∧ (⟨true, true, true, true⟩ : Capabilities).hasDin = true := by decide

theorem witness_SampleActsAsEdgeExactlyAtAFall :
    (({ running 3 1 0 true with prevClk := some true } : State).phase = .run ∧
      ({ running 3 1 0 true with prevClk := some true } : State).prevClk = some true) ∧
    ¬ ((running 3 1 0 true).prevClk = some true ∧ false = false) ∧
    ¬ (({ running 3 1 0 true with prevClk := some true } : State).prevClk = some true ∧ true = false) := by decide

theorem witness_SamplesActAsTheirFallingEdges :
    ({ running 8 1 0 true with prevClk := some true } : State).phase = .run ∧
    fallingEdges (some true) [⟨false, true, false, true, 5⟩, ⟨true, false, false, true, 6⟩] = [.edge true false 5] := by decide

theorem witness_ClockfallIsOneEdge :
    (running 8 1 0 true).phase = .run ∧ (running 0 0 0 true).phase = .run := by decide

theorem witness_EndOfStreamOnlyLeavesRun :
    (running 8 0x49 0 false).phase = .run ∧ aborted.phase ≠ .run ∧ State.reset.phase ≠ .run := by decide

theorem witness_NothingActsOutsideRun :
    aborted.phase ≠ .run ∧ State.reset.phase ≠ .run := by decide

theorem witness_ReservedOpsAreIgnored :
    (5 ≤ 5 ∧ 5 < 8 ∧ ({ State.reset with input := [toBits 3 5 ++ [true]] } : State).input = (toBits 3 5 ++ [true]) :: []) ∧
    5 ≤ 7 ∧ 7 < 8 ∧ ({ State.reset with input := [toBits 3 7 ++ []] } : State).input = (toBits 3 7 ++ []) :: [] := by decide

theorem witness_BitSlotAdvancesOnlyOnEdges :
    (∃ t, exec (.edge true true 10) (running 8 0x49 0 false) = .next t ∧ t.bitSlot ≠ (running 8 0x49 0 false).bitSlot) ∧
    (∃ t, exec (.sample false true true true 10) { running 7 0x49 0 false with prevClk := some true } = .next t ∧
      t.bitSlot = 8) ∧
    ∃ t, exec (.sessionStart ⟨true, true, true, true⟩) (running 8 0x49 0 false) = .next t ∧ t.bitSlot = 0 := 
  ⟨⟨_, rfl, by decide⟩, ⟨_, rfl, by decide⟩, _, rfl, by decide⟩

theorem witness_OnlySessionStartFaults :
    ∃ t, exec (.sessionStart ⟨false, true, true, true⟩) (running 8 0x49 0 false) = .next t ∧ t.phase = .fault ∧
      (running 8 0x49 0 false).phase ≠ .fault := 
  ⟨_, rfl, by decide, by decide⟩

theorem witness_FaultIsSticky :
    aborted.phase = .fault ∧ NoStart [.edge true true 0, .sample false true true true 1, .samplerate 5, .endOfStream] ∧
    Safe State.reset := 
  ⟨by decide, by simp [NoStart, isTransaction], by decide⟩

theorem witness_PhaseChangesOnlyAlongItsArcs :
    (∃ t, exec .endOfStream (running 8 0x49 0 false) = .next t ∧ t.phase ≠ (running 8 0x49 0 false).phase) ∧
    ∃ t, exec (.sessionStart ⟨true, true, true, true⟩) aborted = .next t ∧ t.phase ≠ aborted.phase := 
  ⟨⟨_, rfl, by decide⟩, _, rfl, by decide⟩

theorem witness_OnlySessionStartWritesTheFlags :
    (∀ cfg, Instr.edge true true 10 ≠ .sessionStart cfg) ∧ (∀ rate, Instr.edge true true 10 ≠ .samplerate rate) ∧
    ∃ t, exec (.edge true true 10) (running 8 0x49 0 false) = .next t ∧ t ≠ running 8 0x49 0 false := 
  ⟨by simp, by simp, _, rfl, by decide⟩

theorem witness_StepKeepsTheInvariant :
    ReachableInv { running 8 0x49 0x80 true with input := [bits [0, 1, 1, 1, 1, 1, 0]] } ∧
    ∃ t, step { running 8 0x49 0x80 true with input := [bits [0, 1, 1, 1, 1, 1, 0]] } = .next t ∧ t.bitSlot = 0 := 
  ⟨by decide, _, rfl, by decide⟩

theorem witness_StepRunsTheDecodedTransaction :
    (∃ i, decode ⟨.txn, bits [0, 1, 1, 1, 1, 1, 0]⟩ = .ok i) ∧ State.reset.input = [] ∧
    ∃ why, decode ⟨.txn, bits [1, 0, 0, 1]⟩ = .error why := 
  ⟨⟨_, rfl⟩, rfl, _, rfl⟩

theorem witness_StepTakesOneTransactionAndOnlyAppends :
    isTransaction (.edge true true 2) = true ∧ decode ⟨.txn, bits [0, 1, 1, 1, 1, 1, 0]⟩ = .ok (.edge true true 2) ∧
    ∃ t, step { running 8 0x49 0x80 true with input := [bits [0, 1, 1, 1, 1, 1, 0]] } = .next t ∧ t.output.length = 4 := 
  ⟨rfl, rfl, _, rfl, by decide⟩

theorem witness_FreshSessionsReplayAlike :
    (⟨true, true, true, true⟩ : Capabilities).hasClk = true ∧ (⟨true, true, true, true⟩ : Capabilities).hasDin = true ∧
    ∀ i ∈ ([.edge true true 0, .sample false true true true 1, .endOfStream] : List Instr), isTransaction i = true := by decide

theorem witness_SpansRunForwardWhenPositionsDo :
    ReachableInv (running 8 0x49 0x80 true) ∧ (running 8 0x49 0x80 true).phase = .run ∧
    ∀ a l, (running 8 0x49 0x80 true).startPos = some a → (running 8 0x49 0x80 true).lastPos = some l → a ≤ l ∧ l ≤ 2 := 
  ⟨by decide, rfl, fun a l ha hl => by
    obtain rfl := Option.some.inj ha
    obtain rfl := Option.some.inj hl
    decide⟩

theorem witness_DecodeReadsBackEveryEncoding :
    Instr.wellFormed widths (.recDataIn 255 0 0xFF) = true ∧ Instr.wellFormed widths (.samplerate 255) = true ∧
    Instr.wellFormed ⟨0, 0⟩ (.edge true true 0) = true := by decide

theorem witness_RowsSelectOneOperation :
    (∀ f ∈ [Format.cmd8, Format.txn, Format.record], 0 ∈ List.range (2 ^ f.selectorWidth)) ∧
    0xA5 ∈ List.range (2 ^ Format.cmd8.selectorWidth) ∧
    ∀ k ∈ [0, 1, 7, 8, 9, 15], k ∈ List.range (2 ^ Format.uop.selectorWidth) := by decide

theorem witness_UnselectedMicroOperationChangesNothing :
    (¬ ((running 1 0 0 true).phase = .run ∧ (running 1 0 0 true).bitSlot = 0) ∧
      ¬ (aborted.phase = .run ∧ aborted.bitSlot = 0)) ∧
    (¬ DataDue (running 8 0 0 true) ∧ ¬ DataDue aborted) ∧
    ¬ SyncDue (running 7 0 0 true) ∧ ¬ SyncDue { running 8 0 0 true with phase := .off } := 
  ⟨by decide, ⟨fun h => absurd h.2 (by decide), fun h => absurd h.1 (by decide)⟩, fun h => absurd h.2 (by decide),
    fun h => absurd h.1 (by decide)⟩

/-- A source that issues one EDGE and then ceases. -/
def oneEdge : Source := fun n => if n = 0 then some (bits [0, 1, 1, 1, 1, 1, 0]) else none

/-- A source that issues an EDGE at every moment, without end. -/
def endless : Source := fun _ => some (bits [0, 1, 1, 1, 1, 1, 0])

/-- The edge of `endless` at each moment. -/
def edgeAt : Nat → Level × Level × Pos := fun _ => (true, true, 2)

theorem witness_RunExecutesWhatTheSourceIssues :
    (running 0 0 0 true).input = [] ∧
    Issues oneEdge (fun n => if n = 0 then some (.edge true true 2) else none) ∧
    Issues endless (fun _ => some (.edge true true 2)) := 
  ⟨rfl, fun n => by cases n <;> simp [oneEdge]; rfl, fun _ => .inr ⟨_, _, rfl, rfl, rfl⟩⟩

theorem witness_EndlessAndCeasedRunsAreLegal :
    (running 0 0 0 true).input = [] ∧
    (Issues oneEdge (fun n => if n = 0 then some (.edge true true 2) else none) ∧ oneEdge.Ceases 1) ∧
    (running 0 0 0 true).phase = .run ∧ (running 0 0 0 true).bitSlot = 0 ∧
    Issues endless (fun n => some (.edge (edgeAt n).1 (edgeAt n).2.1 (edgeAt n).2.2)) := 
  ⟨rfl, ⟨witness_RunExecutesWhatTheSourceIssues.2.1, fun _ h => if_neg (Nat.ne_of_gt h)⟩, rfl, rfl,
    witness_RunExecutesWhatTheSourceIssues.2.2⟩

theorem witness_RecordsStandAloneUnderTheirConditions :
    (0x40 : Byte) ∈ opcodes ∧ (0xA5 : Byte) ∈ opcodes ∧ (0x00 : Byte) ∉ opcodes ∧ (running 8 0 0 true).hasDout = true ∧
    State.reset.hasDout = false := by decide

theorem witness_RecordOperationsInOrderMakeTheBurst :
    (running 3 0 0 true).hasDout = true := by decide

end Sys2Proof.Tests
end

section
/-! SUPPORT. The nine edges of a frame from a boundary (R53, R54): what each edge does to the registers of a frame in
progress, and the two bytes that the data edges leave in the accumulators. -/

namespace Sys2Proof.Proofs

open Sys2Proof.Machine Sys2Proof.Statements

/-! ### The burst -/

/-- A byte hits the Command Table exactly when R111 lists it. -/
theorem cmdRom_ne_none_iff (b : Byte) : cmdRom b ≠ none ↔ b ∈ opcodes := by
  have table : opcodes = commandTable.map (·.1) := rfl
  rw [table, cmdRom, ne_eq, Option.map_eq_none_iff, List.find?_eq_none, List.mem_map]
  simp

/-- `EmitFrame` appends the burst that R145 tabulates. -/
theorem emitFrame_eq_burst (start stop : Pos) (din dout : Byte) (gate : Level) (s : State) :
    emitFrame start stop din dout gate s =
      { s with output := s.output ++ burst start stop din dout gate } := by
  rw [emitFrame_eq]
  simp only [cmdRom_ne_none_iff]
  by_cases h : din ∈ opcodes <;> cases gate <;> simp only [burst, h, decide_true, decide_false] <;> rfl

/-! ### Bit strings, and a level entering an accumulator -/

/-- Appending bits shifts those before them up (R9). -/
theorem ofBits_append (front back : BitString) :
    ofBits (front ++ back) = ofBits front * 2 ^ back.length + ofBits back := by
  induction front with
  | nil => simp [ofBits]
  | cons b front ih => rw [List.cons_append, ofBits, ofBits, ih, List.length_append, pow_add]; ring

/-- Above the bits already taken, ORing a level in adds its weight (R124, R131). -/
theorem orAtSlot_toNat {acc : Byte} {slot : Slot} (hslot : slot < 8) (hacc : acc.toNat < 2 ^ slot.val)
    (level : Level) : (orAtSlot acc level slot).toNat = acc.toNat + level.toNat * 2 ^ slot.val := by
  have hpow : 2 ^ (slot.val + 1) ≤ 2 ^ 8 := Nat.pow_le_pow_right (by decide) hslot
  cases level with
  | false => simp
  | true =>
    have hbit : ((BitVec.ofBool true).setWidth 8 <<< slot.val : Byte).toNat = 1 <<< slot.val := by
      simp [Nat.shiftLeft_eq]; omega
    rw [orAtSlot, BitVec.toNat_or, hbit, Nat.or_comm, ← Nat.shiftLeft_add_eq_or_of_lt hacc, Nat.shiftLeft_eq]
    simp [Nat.add_comm]

/-- Below slot 8 the shift loses no bit (R123, R130). -/
theorem pushMsbFirst_toNat_of_lt {acc : Byte} {slot : Slot} (hslot : slot < 8) (hacc : acc.toNat < 2 ^ slot.val)
    (level : Level) : (pushMsbFirst acc level).toNat = 2 * acc.toNat + level.toNat := by
  have hpow : 2 ^ slot.val ≤ 2 ^ 7 := Nat.pow_le_pow_right (by decide) (Nat.le_of_lt_succ hslot)
  have hlevel := Bool.toNat_le level
  rw [pushMsbFirst_toNat, Nat.mod_eq_of_lt (by omega)]

/-- The first level of a frame, alone in the data-in accumulator. -/
theorem pushMsbFirst_zero_toNat (level : Level) : (pushMsbFirst 0 level).toNat = level.toNat := by
  revert level; decide

/-- The first level of a frame, alone in the data-out accumulator. -/
theorem orAtSlot_zero_toNat (level : Level) : (orAtSlot 0 level 0).toNat = level.toNat := by
  revert level; decide

/-! ### The edges of a frame in progress -/

/-- The state `s` inside a frame that began at `start`, with `k` data bits taken, the latest at `last`. -/
def inFrame (k : Slot) (din dout : Byte) (start last : Pos) (s : State) : State :=
  { s with bitSlot := k, dinAcc := din, doutAcc := dout, startPos := some start, lastPos := some last }

section Edges

variable {s : State} (hrun : s.phase = .run)
include hrun

/-- The first edge opens the frame, whatever the accumulators held (R121). -/
theorem exec_edge_opensFrame (h0 : s.bitSlot = 0) (din dout : Level) (pos : Pos) :
    exec (.edge din dout pos) s =
      .next (inFrame 1 (pushMsbFirst 0 din) (orAtSlot 0 (gateDout dout s.hasDout) 0) pos pos s) := by
  rw [exec, execEdge, edgeStep_first hrun h0]
  simp [shiftDataOut, shiftDataIn, startFrame, setLastPos, inFrame, h0]

/-- A later data edge takes one bit into each accumulator (R123, R124). -/
theorem exec_edge_shifts {k : Slot} (h0 : k ≠ 0) (h8 : k < 8) (a b : Byte) (start last : Pos)
    (din dout : Level) (pos : Pos) :
    exec (.edge din dout pos) (inFrame k a b start last s) =
      .next (inFrame (k + 1) (pushMsbFirst a din) (orAtSlot b (gateDout dout s.hasDout) k) start pos s) := by
  rw [exec, execEdge, edgeStep_data (s := inFrame k a b start last s) hrun h0 h8]
  rfl

/-- The sync edge emits the burst over the frame's span and returns to a boundary, its levels unread (R125, R127). -/
theorem exec_edge_closesFrame (a b : Byte) (start last : Pos) (din dout : Level) (pos : Pos) :
    exec (.edge din dout pos) (inFrame 8 a b start last s) =
      .next { s with
        bitSlot := 0, dinAcc := 0, doutAcc := 0, startPos := some start, lastPos := some pos,
        output := s.output ++ burst start pos a b s.hasDout } := by
  rw [exec, execEdge, edgeStep_sync (s := inFrame 8 a b start last s) hrun rfl, syncFrame, emitFrame_eq_burst]
  rfl

/-- The data edges that complete a frame: the data-in levels follow the bits taken, most significant first; the gated
data-out levels go above the bits taken, least significant first. -/
theorem execAll_edges_fillFrame (edges : List (Level × Level × Pos)) (rest : List Instr) {k : Slot} {a b : Byte}
    (start last : Pos) (h0 : k ≠ 0) (hlen : k.val + edges.length = 8)
    (ha : a.toNat < 2 ^ k.val) (hb : b.toNat < 2 ^ k.val) :
    ∃ (din dout : Byte) (pos : Pos),
      execAll ((edges.map fun e => .edge e.1 e.2.1 e.2.2) ++ rest) (inFrame k a b start last s) =
        execAll rest (inFrame 8 din dout start pos s) ∧
      din.toNat = a.toNat * 2 ^ edges.length + ofBits (edges.map (·.1)) ∧
      dout.toNat = b.toNat + 2 ^ k.val * ofBits (edges.map fun e => gateDout e.2.1 s.hasDout).reverse := by
  induction edges generalizing k a b last with
  | nil =>
    obtain rfl : k = 8 := Fin.ext hlen
    exact ⟨a, b, last, rfl, by simp [ofBits], by simp [ofBits]⟩
  | cons e edges ih =>
    rw [List.length_cons] at hlen
    have h8 : k < 8 := show k.val < 8 by omega
    have hk : (k + 1).val = k.val + 1 := Fin.val_add_one_of_lt (n := 8) h8
    have hpush := pushMsbFirst_toNat_of_lt h8 ha e.1
    have hor := orAtSlot_toNat h8 hb (gateDout e.2.1 s.hasDout)
    have hdin := Bool.toNat_le e.1
    have hdout := Nat.mul_le_mul_right (2 ^ k.val) (Bool.toNat_le (gateDout e.2.1 s.hasDout))
    obtain ⟨din, dout, pos, hexec, hdinByte, hdoutByte⟩ := ih (k := k + 1) (a := pushMsbFirst a e.1)
      (b := orAtSlot b (gateDout e.2.1 s.hasDout) k) (last := e.2.2)
      (Fin.ne_of_val_ne (by rw [hk]; exact Nat.succ_ne_zero _)) (by omega) (by rw [hk, pow_succ]; omega)
      (by rw [hk, pow_succ]; omega)
    refine ⟨din, dout, pos, ?_, ?_, ?_⟩
    · rw [List.map_cons, List.cons_append, execAll_cons (exec_edge_shifts hrun h0 h8 ..), hexec]
    · rw [hdinByte, hpush, List.map_cons, ofBits, List.length_map, List.length_cons]
      ring
    · rw [hdoutByte, hor, hk, List.map_cons, List.reverse_cons, ofBits_append]
      simp [ofBits]
      ring

end Edges

/-- Settles O17: the first edge opens the frame, the seven that follow fill both accumulators, the sync edge closes it. -/
theorem nineEdgesAssembleBothBytes : Obligations.NineEdgesAssembleBothBytes := by
  unfold Obligations.NineEdgesAssembleBothBytes
  intro s dins douts pos syncDin syncDout hrun h0
  have hopen := exec_edge_opensFrame hrun h0 (dins 0) (douts 0) (pos 0)
  have hdin := pushMsbFirst_zero_toNat (dins 0)
  have hdout := orAtSlot_zero_toNat (gateDout (douts 0) s.hasDout)
  obtain ⟨dinByte, doutByte, last, hfill, hdinByte, hdoutByte⟩ := execAll_edges_fillFrame hrun
    [(dins 1, douts 1, pos 1), (dins 2, douts 2, pos 2), (dins 3, douts 3, pos 3), (dins 4, douts 4, pos 4),
      (dins 5, douts 5, pos 5), (dins 6, douts 6, pos 6), (dins 7, douts 7, pos 7)]
    [.edge syncDin syncDout (pos 8)] (pos 0) (pos 0) (show (1 : Slot) ≠ 0 by decide) rfl
    (hdin ▸ Bool.toNat_lt (dins 0)) (hdout ▸ Bool.toNat_lt (gateDout (douts 0) s.hasDout))
  have hclose := exec_edge_closesFrame hrun dinByte doutByte (pos 0) last syncDin syncDout (pos 8)
  refine ⟨dinByte, doutByte, ?_, fun hgate => ?_, fun hgate => ?_, ?_⟩
  · rw [hdinByte, hdin]
    simp [ofBits]
    ring
  · rw [hdoutByte, hdout, hgate]
    simp [ofBits, gateDout]
    ring
  · apply BitVec.eq_of_toNat_eq
    rw [hdoutByte, hdout, hgate]
    simp [ofBits]
  · rw [nineEdges, execAll_cons hopen]
    exact hfill.trans (execAll_cons hclose [])

end Sys2Proof.Proofs
end

section
/-! SUPPORT. What an operation appends to the output stream (R62, R101 to R111, R140 to R144), and the display strings
of the records it emits (R89 to R91). -/

namespace Sys2Proof.Proofs

open Sys2Proof.Machine Sys2Proof.Statements

/-! ### The records of one operation -/

/-- What one operation can append to the output, with `has_dout` at `gate`: nothing, the burst of a finalised frame, or
one record under its rule's condition. -/
inductive Emission (gate : Level) : List Record → Prop where
  | nothing : Emission gate []
  | frame (start stop : Pos) (din dout : Byte) : Emission gate (burst start stop din dout gate)
  | dataIn (start stop : Pos) (value : Byte) : Emission gate [⟨.dataIn, start, stop, value⟩]
  | command (start stop : Pos) {value : Byte} (h : value ∈ opcodes) : Emission gate [⟨.command, start, stop, value⟩]
  | dataOut (start stop : Pos) (value : Byte) (h : gate = true) : Emission gate [⟨.dataOut, start, stop, value⟩]
  | sync (stop : Pos) : Emission gate [⟨.sync, stop, stop, 0⟩]

/-- R143 and R142 for a whole emission: a DATA_OUT record needs that wire, a COMMAND record holds an opcode. -/
theorem Emission.conditions {gate : Level} {new : List Record} (h : Emission gate new) :
    ∀ r ∈ new, (r.cat = .dataOut → gate = true) ∧ (r.cat = .command → r.value ∈ opcodes) := by
  cases h with
  | nothing => exact fun _ hr => absurd hr List.not_mem_nil
  | frame start stop din dout =>
    by_cases hdin : din ∈ opcodes
    · cases gate <;> simp only [burst, hdin, decide_true, List.forall_mem_cons] <;> simp
    · cases gate <;> simp [burst, hdin]
  | dataIn | sync => simp
  | command _ _ hvalue => simpa using hvalue
  | dataOut _ _ _ hgate => simp [hgate]

/-- The state `t` holds the records of `s` and, after them, those of one operation executed in `s`. -/
def Appends (s t : State) : Prop := ∃ new, t.output = s.output ++ new ∧ Emission s.hasDout new

section Appends

variable {s t : State}

theorem Appends.of_output_eq (h : t.output = s.output) : Appends s t :=
  ⟨[], by rw [h, List.append_nil], .nothing⟩

theorem Appends.refl (s : State) : Appends s s := .of_output_eq rfl

/-- A part of an edge that is not selected changes nothing (R134). -/
theorem Appends.ite {c : Prop} [Decidable c] (h : Appends s t) : Appends s (if c then t else s) := by
  split
  · exact h
  · exact .refl s

theorem syncFrame_appends (pos : Pos) (s : State) : Appends s (syncFrame pos s) :=
  ⟨_, by rw [syncFrame, closeFrame_output, emitFrame_eq_burst], .frame s.startPosValue pos s.dinAcc s.doutAcc⟩

/-- Only the sync edge emits (R125, R126). -/
theorem edgeStep_appends (din dout : Level) (pos : Pos) (s : State) : Appends s (edgeStep din dout pos s) := by
  obtain ⟨-, h⟩ | ⟨-, -, h⟩ | ⟨-, -, -, h⟩ | ⟨-, -, h⟩ := edgeStep_cases din dout pos s <;> rw [h]
  · exact .refl s
  · exact .of_output_eq (by simp)
  · exact .of_output_eq (by simp)
  · exact syncFrame_appends pos (setLastPos pos s)

theorem opcode_mem_opcodes (c : Command) : c.opcode ∈ opcodes := by
  cases c <;> decide

theorem classifyAs_appends (c : Command) (pos : Pos) (s : State) : Appends s (classifyAs c pos s) := by
  obtain ⟨-, -, -, h⟩ | ⟨-, h⟩ := classifyAs_cases c pos s <;> rw [h]
  · exact ⟨_, State.emit_output .., .command _ _ (opcode_mem_opcodes c)⟩
  · exact .refl s

theorem emitCommand_appends (start stop : Pos) (value : Byte) (s : State) :
    Appends s (emitCommand start stop value s) := by
  rw [emitCommand]
  split
  next h => exact ⟨_, State.emit_output .., .command _ _ ((cmdRom_ne_none_iff value).mp h)⟩
  next => exact .refl s

theorem emitDataOut_appends (start stop : Pos) (value : Byte) (s : State) :
    Appends s (emitDataOut start stop value s.hasDout s) := by
  rw [emitDataOut]
  split
  next h => exact ⟨_, State.emit_output .., .dataOut _ _ _ h⟩
  next => exact .refl s

theorem execSessionStart_appends (cfg : Capabilities) (s : State) :
    ∃ t, execSessionStart cfg s = .next t ∧ Appends s t := by
  obtain ⟨-, h⟩ | ⟨-, h⟩ := execSessionStart_cases cfg s
  · exact ⟨_, h, .of_output_eq (by simp)⟩
  · exact ⟨_, h, .of_output_eq (by simp)⟩

theorem execSample_appends (clk din dout : Level) (pos : Pos) (s : State) :
    ∃ t, execSample clk din dout pos s = .next t ∧ Appends s t := by
  obtain ⟨-, h⟩ | ⟨-, -, h⟩ | ⟨-, -, h⟩ := execSample_cases clk din dout pos s
  · exact ⟨_, h, .refl s⟩
  · exact ⟨_, h, edgeStep_appends din dout pos (setPrevClk clk s)⟩
  · exact ⟨_, h, .of_output_eq (by simp)⟩

end Appends

/-- Everything an operation can do to the output: it completes (R178) and appends one emission (R62). -/
theorem exec_appends (i : Instr) (s : State) : ∃ t, exec i s = .next t ∧ Appends s t := by
  cases i with
  | setOffsetL | setOffsetH | setData | getOffset | readFlash | ping | readCustom | setXpage | writeFlash
  | writeCustom => exact ⟨_, rfl, classifyAs_appends ..⟩
  | sessionStart cfg => exact execSessionStart_appends cfg s
  | samplerate rate => exact ⟨_, rfl, .of_output_eq (setSamplerate_output rate s)⟩
  | sample clk din dout msel pos => exact execSample_appends clk din dout pos s
  | edge din dout pos => exact ⟨_, rfl, edgeStep_appends din dout pos s⟩
  | endOfStream => exact ⟨_, rfl, .ite (.of_output_eq (endSession_output s))⟩
  | reservedOp5 | reservedOp6_7 | recWarning => exact ⟨_, rfl, .refl s⟩
  | frameStart pos => exact ⟨_, rfl, .ite (.of_output_eq (startFrame_output pos s))⟩
  | shiftDin din => exact ⟨_, rfl, .ite (.of_output_eq (shiftDataIn_output din s))⟩
  | shiftDout dout => exact ⟨_, rfl, .ite (.of_output_eq (shiftDataOut_output dout s))⟩
  | sync pos => exact ⟨_, rfl, .ite (syncFrame_appends pos s)⟩
  | recDataIn start stop value => exact ⟨_, rfl, _, State.emit_output .., .dataIn start stop value⟩
  | recCommand start stop value => exact ⟨_, rfl, emitCommand_appends start stop value s⟩
  | recDataOut start stop value => exact ⟨_, rfl, emitDataOut_appends start stop value s⟩
  | recSync stop => exact ⟨_, rfl, _, State.emit_output .., .sync stop⟩

/-! ### The display strings -/

/-- R91: a COMMAND value outside the Command Table has no display strings. -/
theorem display_command_of_notMem (r : DisplayRules) {v : Byte} (h : v ∉ opcodes) : display r .command v = none := by
  have hmiss : cmdRom v = none := not_not.mp (mt (cmdRom_ne_none_iff v).mp h)
  simp [display, hmiss]

/-- R91: the three strings of a COMMAND value in the table, from the name that the table gives it. -/
theorem display_command_of_mem (r : DisplayRules) {v : Byte} (h : v ∈ opcodes) :
    ∃ c, cmdRom v = some c ∧ display r .command v = some (displayCommand r v c) := by
  obtain ⟨c, hhit⟩ := Option.ne_none_iff_exists'.mp ((cmdRom_ne_none_iff v).mpr h)
  exact ⟨c, hhit, by simp [display, hhit]⟩

/-- Settles O26: the strings follow the table lookup, and every emission meets the conditions of its records. -/
theorem displayStringsFollowTheirShapes : Obligations.DisplayStringsFollowTheirShapes := by
  unfold Obligations.DisplayStringsFollowTheirShapes
  refine ⟨fun r v => ⟨rfl, rfl, display_command_of_notMem r, display_command_of_mem r⟩, ?_, ?_, ?_, fun i s => ?_⟩
  · decide
  · decide
  · decide
  · obtain ⟨t, hexec, new, hout, hnew⟩ := exec_appends i s
    exact ⟨t, new, hexec, hout, hnew.conditions⟩

end Sys2Proof.Proofs
end

section
/-! SUPPORT. Classifying a finalised frame (R101 to R113): the sync edge with its whole next state, the COMMAND
records of its burst, and what FRAME leaves in the output. -/

namespace Sys2Proof.Proofs

open Sys2Proof.Machine Sys2Proof.Statements

/-! ### The burst, record by record -/

/-- R145's table as R140 words it: four records in order, the second and the third under their conditions. -/
theorem burst_eq (start stop : Pos) (din dout : Byte) (gate : Level) :
    burst start stop din dout gate =
      [⟨.dataIn, start, stop, din⟩] ++ (if din ∈ opcodes then [⟨.command, start, stop, din⟩] else []) ++
        (if gate = true then [⟨.dataOut, start, stop, dout⟩] else []) ++ [⟨.sync, stop, stop, 0⟩] := by
  by_cases h : din ∈ opcodes <;> cases gate <;> simp only [burst, h, decide_true, decide_false] <;> rfl

theorem dataIn_mem_burst (start stop : Pos) (din dout : Byte) (gate : Level) :
    ⟨.dataIn, start, stop, din⟩ ∈ burst start stop din dout gate := by
  simp [burst_eq]

/-- The COMMAND records of a burst depend on the span and the data-in byte only (R111, R113). -/
theorem commands_burst (start stop : Pos) (din dout : Byte) (gate : Level) :
    commands (burst start stop din dout gate) =
      if din ∈ opcodes then [⟨.command, start, stop, din⟩] else [] := by
  rw [burst_eq]
  by_cases h : din ∈ opcodes <;> cases gate <;> simp [commands, h]

/-! ### The Command Table -/

/-- The bytes that miss are those R111 does not list. -/
theorem cmdRom_eq_none_iff (b : Byte) : cmdRom b = none ↔ b ∉ opcodes :=
  (not_iff_comm.mp (cmdRom_ne_none_iff b)).symm

theorem cmdRom_opcode (c : Command) : cmdRom c.opcode = some c :=
  (cmdRom_eq_some_iff c.opcode c).mpr rfl

/-! ### The sync edge and the classification by itself -/

/-- The sync edge from any state in which it is due: the burst, then the clears, its levels unread (R125, R127). -/
theorem exec_edge_of_syncDue {s : State} (h : SyncDue s) (din dout : Level) (pos : Pos) :
    exec (.edge din dout pos) s =
      .next { s with
        bitSlot := 0, dinAcc := 0, doutAcc := 0, lastPos := some pos,
        output := s.output ++ burst s.startPosValue pos s.dinAcc s.doutAcc s.hasDout } := by
  obtain ⟨hrun, h8⟩ := h
  rw [exec, execEdge, edgeStep_sync hrun h8, syncFrame, emitFrame_eq_burst]
  rfl

/-- Each of the ten commands means the classification of the frame as itself. -/
theorem exec_toInstr (c : Command) (pos : Pos) (s : State) :
    exec (c.toInstr pos) s = .next (classifyAs c pos s) := by
  cases c <;> rfl

/-- A command whose opcode the finalised frame holds appends its COMMAND record and changes nothing else. -/
theorem exec_toInstr_of_syncDue {c : Command} {s : State} (h : SyncDue s) (hbyte : s.dinAcc = c.opcode) (pos : Pos) :
    exec (c.toInstr pos) s =
      .next { s with output := s.output ++ [⟨.command, s.startPosValue, pos, c.opcode⟩] } := by
  obtain ⟨hrun, h8⟩ := h
  rw [exec_toInstr, classifyAs, if_pos ⟨hrun, h8, hbyte⟩]
  rfl

/-! ### FRAME, from a boundary and from power-on -/

/-- A byte is the sum of its bits' weights. -/
theorem byte_toNat_eq_sum_bits (b : Byte) :
    b.toNat = (b.getLsbD 7).toNat * 128 + (b.getLsbD 6).toNat * 64 + (b.getLsbD 5).toNat * 32 +
      (b.getLsbD 4).toNat * 16 + (b.getLsbD 3).toNat * 8 + (b.getLsbD 2).toNat * 4 + (b.getLsbD 1).toNat * 2 +
      (b.getLsbD 0).toNat := by
  have h : ofBits (toBits 8 b.toNat) = b.toNat := ofBits_toBits b.isLt
  simp only [toBits, ofBits, List.length_cons, List.length_nil, BitVec.testBit_toNat] at h
  omega

/-- The same sum, least significant bit first. -/
theorem byte_toNat_eq_sum_bits_lsbFirst (b : Byte) :
    b.toNat = (b.getLsbD 0).toNat + (b.getLsbD 1).toNat * 2 + (b.getLsbD 2).toNat * 4 + (b.getLsbD 3).toNat * 8 +
      (b.getLsbD 4).toNat * 16 + (b.getLsbD 5).toNat * 32 + (b.getLsbD 6).toNat * 64 + (b.getLsbD 7).toNat * 128 := by
  have h := byte_toNat_eq_sum_bits b
  omega

/-- FRAME puts the burst of the two bytes it names into the output (R95). -/
theorem execAll_frame_output {s : State} (hrun : s.phase = .run) (h0 : s.bitSlot = 0) (din dout : Byte)
    (p0 step : Pos) :
    ∃ t, execAll (frame din dout p0 step) s = .next t ∧
      t.output = s.output ++
        burst p0 (p0 + 8 * step) din (if s.hasDout = true then dout else 0) s.hasDout := by
  obtain ⟨dinByte, doutByte, hdin, hdout, hgated, hexec⟩ :=
    nineEdgesAssembleBothBytes s (fun j => din.getLsbD (7 - j.val)) (fun j => dout.getLsbD j.val)
      (fun j => p0 + j.val * step) false false hrun h0
  have hdinByte : dinByte = din := BitVec.eq_of_toNat_eq (hdin.trans (byte_toNat_eq_sum_bits din).symm)
  have hdoutByte : doutByte = if s.hasDout = true then dout else 0 := by
    split
    next hgate =>
      exact BitVec.eq_of_toNat_eq ((hdout hgate).trans (byte_toNat_eq_sum_bits_lsbFirst dout).symm)
    next hgate => exact hgated (eq_false_of_ne_true hgate)
  refine ⟨_, hexec, ?_⟩
  simp [hdinByte, hdoutByte]

/-- From power-on, a session with `has_dout` at `g` and one FRAME emit exactly that frame's burst. -/
theorem emits_frame (g : Level) (din dout : Byte) (p0 step : Pos) :
    emits (started g :: frame din dout p0 step)
      (burst p0 (p0 + 8 * step) din (if g = true then dout else 0) g) := by
  have hstart : exec (started g) State.reset = .next (startSession ⟨true, true, g, false⟩ State.reset) := by
    cases g <;> rfl
  obtain ⟨t, hexec, hout⟩ :=
    execAll_frame_output (s := startSession ⟨true, true, g, false⟩ State.reset) rfl rfl din dout p0 step
  exact ⟨t, (execAll_cons hstart _).trans hexec, hout⟩

/-! ### The rule of one command -/

/-- The template of R101 to R110 holds of every command, with the strings that `display` gives its opcode. -/
theorem commandRule (c : Command) {full abbr : String}
    (hstrings : display specRules .command c.opcode = some [full, c.name, abbr]) :
    CommandRule c.toInstr c.opcode c.index c.name full abbr := by
  have hmem : c.opcode ∈ opcodes := opcode_mem_opcodes c
  refine ⟨⟨c, cmdRom_opcode c, rfl, rfl⟩, hstrings, fun s pos hdue hbyte =>
    ⟨exec_toInstr_of_syncDue hdue hbyte pos, fun din dout => ?_⟩, ?_⟩
  · rw [exec_edge_of_syncDue hdue, burst_eq, hbyte, if_pos hmem]
    rfl
  · simpa [burst_eq, hmem] using emits_frame false c.opcode 0 0 1

/-- 0xA5 reads the same in both bit orders, so equal levels on both wires are the FRAME with 0xA5 twice (R110). -/
theorem nineEdges_writeCustom_eq_frame {levels : Fin 8 → Level}
    (h : ∀ j, levels j = (0xA5#8).getLsbD (7 - j.val)) :
    nineEdges levels levels (fun j => j.val) false false = frame 0xA5 0xA5 0 1 := by
  have hdin : levels = fun j => (0xA5 : Byte).getLsbD (7 - j.val) := funext h
  have hsym : ∀ j : Fin 8, (0xA5#8).getLsbD (7 - j.val) = (0xA5#8).getLsbD j.val := by decide
  have hdout : levels = fun j => (0xA5 : Byte).getLsbD j.val := funext fun j => (h j).trans (hsym j)
  have hpos : (fun j : Fin 9 => j.val) = fun j => 0 + j.val * 1 := by simp
  rw [frame, ← hdin, ← hdout, ← hpos]

/-- Settles O1: the template for each command, then the bytes that are none and the frames of the corner cases. -/
theorem everyCommandLabelsItsFrame : Obligations.EveryCommandLabelsItsFrame := by
  unfold Obligations.EveryCommandLabelsItsFrame
  refine ⟨commandRule .setOffsetL (by decide), commandRule .setOffsetH (by decide), commandRule .setData (by decide),
    commandRule .getOffset (by decide), commandRule .readFlash (by decide), commandRule .ping (by decide),
    commandRule .readCustom (by decide), commandRule .setXpage (by decide), commandRule .writeFlash (by decide),
    commandRule .writeCustom (by decide), ?misses, ?dataInString, ?dataOutOpcode, fun levels hlevels => ?bothWires⟩
  case misses => decide
  case dataInString => decide
  case dataOutOpcode => exact emits_frame true 0x00 0x40 0 1
  case bothWires =>
    rw [nineEdges_writeCustom_eq_frame hlevels]
    exact emits_frame true 0xA5 0xA5 0 1

/-- Settles O2: the sync edge appends one burst, whose COMMAND records are those the data-in byte calls for. -/
theorem unmatchedByteEmitsNoCommand : Obligations.UnmatchedByteEmitsNoCommand := by
  unfold Obligations.UnmatchedByteEmitsNoCommand
  refine ⟨cmdRom_eq_none_iff, fun s din dout pos hdue => ?_, emits_frame false 0x45 0 0 1⟩
  exact ⟨_, _, exec_edge_of_syncDue hdue din dout pos, rfl, dataIn_mem_burst .., commands_burst ..⟩

/-- Settles O3: the two bursts have the same span and data-in byte, and these alone fix the COMMAND records. -/
theorem dataOutByteIsNeverClassified : Obligations.DataOutByteIsNeverClassified := by
  unfold Obligations.DataOutByteIsNeverClassified
  intro s din dout pos b hdue
  have hdue' : SyncDue { s with doutAcc := b } := hdue
  refine ⟨_, _, _, _, exec_edge_of_syncDue hdue din dout pos, rfl, exec_edge_of_syncDue hdue' din dout pos, rfl, ?_⟩
  exact (commands_burst ..).trans (commands_burst ..).symm

end Sys2Proof.Proofs
end

section
/-! SUPPORT. The edge in each of its cases, its micro-operations by themselves, and what they do to the accumulators
(R120 to R127). -/

namespace Sys2Proof.Proofs

open Sys2Proof.Machine Sys2Proof.Statements

/-! ### A level entering an accumulator, as arithmetic -/

/-- The data-in byte after a level is twice itself plus the level, in eight bits (R123). -/
theorem pushMsbFirst_eq_ofNat (acc : Byte) (level : Level) :
    pushMsbFirst acc level = BitVec.ofNat 8 (2 * acc.toNat + level.toNat) :=
  BitVec.eq_of_toNat_eq (by rw [pushMsbFirst_toNat, BitVec.toNat_ofNat])

/-- The data-out byte after a level has the level's weight at the slot ORed in (R124). -/
theorem orAtSlot_eq_or_ofNat (acc : Byte) (level : Level) (slot : Slot) :
    orAtSlot acc level slot = acc ||| BitVec.ofNat 8 (level.toNat * 2 ^ slot.val) := by
  have hweight : (BitVec.ofBool level).setWidth 8 <<< slot.val = BitVec.ofNat 8 (level.toNat * 2 ^ slot.val) :=
    BitVec.eq_of_toNat_eq (by cases level <;> simp [Nat.shiftLeft_eq])
  rw [orAtSlot, hweight]

/-! ### Reachable states inside a frame -/

/-- At a frame boundary of a reachable state both accumulators are 0 (R43). -/
theorem accumulators_eq_zero_of_boundary {s : State} (hinv : ReachableInv s) (hrun : s.phase = .run)
    (h0 : s.bitSlot = 0) : s.dinAcc = 0 ∧ s.doutAcc = 0 := by
  obtain ⟨hdin, hdout, -⟩ := hinv.1 hrun
  rw [h0] at hdin hdout
  exact ⟨BitVec.eq_of_toNat_eq (Nat.lt_one_iff.mp hdin), BitVec.eq_of_toNat_eq (Nat.lt_one_iff.mp hdout)⟩

/-- In a reachable state the data-out bits not yet taken are clear (R43). -/
theorem doutAcc_getLsbD_of_slot_le {s : State} (hinv : ReachableInv s) (hrun : s.phase = .run) {j : Nat}
    (hj : s.bitSlot.val ≤ j) : s.doutAcc.getLsbD j = false := by
  obtain ⟨-, hdout, -⟩ := hinv.1 hrun
  exact Nat.testBit_lt_two_pow (hdout.trans_le (Nat.pow_le_pow_right (by decide) hj))

/-! ### The slot of a data edge -/

/-- The increment of a data edge's slot does not wrap (R28, R124). -/
theorem slot_succ_val {s : State} (h : DataDue s) : (s.bitSlot + 1).val = s.bitSlot.val + 1 :=
  Fin.val_add_one_of_lt (n := 8) h.2

/-! ### The micro-operations by themselves -/

theorem exec_frameStart {s : State} (hrun : s.phase = .run) (h0 : s.bitSlot = 0) (pos : Pos) :
    exec (.frameStart pos) s = .next (startFrame pos s) :=
  congrArg Host.Outcome.next (if_pos ⟨hrun, h0⟩)

theorem exec_shiftDin {s : State} (h : DataDue s) (din : Level) :
    exec (.shiftDin din) s = .next (shiftDataIn din s) :=
  congrArg Host.Outcome.next (if_pos h)

theorem exec_shiftDout {s : State} (h : DataDue s) (dout : Level) :
    exec (.shiftDout dout) s = .next (shiftDataOut dout s) :=
  congrArg Host.Outcome.next (if_pos h)

/-- SYNC emits the burst from the registers as it finds them, then clears (R125). -/
theorem exec_sync {s : State} (h : SyncDue s) (pos : Pos) :
    exec (.sync pos) s =
      .next { s with
        bitSlot := 0, dinAcc := 0, doutAcc := 0,
        output := s.output ++ burst s.startPosValue pos s.dinAcc s.doutAcc s.hasDout } := by
  obtain ⟨hrun, h8⟩ := h
  rw [exec, execSync, if_pos ⟨hrun, h8⟩, syncFrame, emitFrame_eq_burst]
  rfl

/-! ### A data edge -/

/-- A data edge after the first takes one bit into each accumulator, whatever the registers hold (R123, R124). -/
theorem exec_edge_of_midFrame {s : State} (hrun : s.phase = .run) (h0 : s.bitSlot ≠ 0) (h8 : s.bitSlot < 8)
    (din dout : Level) (pos : Pos) :
    exec (.edge din dout pos) s =
      .next { s with
        lastPos := some pos, bitSlot := s.bitSlot + 1, dinAcc := pushMsbFirst s.dinAcc din,
        doutAcc := orAtSlot s.doutAcc (gateDout dout s.hasDout) s.bitSlot } := by
  rw [exec, execEdge, edgeStep_data hrun h0 h8]
  rfl

/-- Any data edge, the first included, goes up by one slot and emits nothing (R126). -/
theorem exec_edge_of_dataDue {s : State} (h : DataDue s) (din dout : Level) (pos : Pos) :
    ∃ t, exec (.edge din dout pos) s = .next t ∧ t.phase = .run ∧ t.bitSlot.val = s.bitSlot.val + 1 ∧
      t.output = s.output := by
  have hslot := slot_succ_val h
  obtain ⟨hrun, h8⟩ := h
  by_cases h0 : s.bitSlot = 0
  · exact ⟨_, exec_edge_opensFrame hrun h0 din dout pos, hrun, by rw [h0]; rfl, rfl⟩
  · exact ⟨_, exec_edge_of_midFrame hrun h0 h8 din dout pos, hrun, hslot, rfl⟩

/-- Data edges up to the eighth emit nothing: each goes up by one slot (R126, R129). -/
theorem execAll_dataEdges (edges : List (Level × Level × Pos)) {s : State} (hrun : s.phase = .run)
    (hlen : s.bitSlot.val + edges.length ≤ 8) :
    ∃ t, execAll (edges.map fun e => .edge e.1 e.2.1 e.2.2) s = .next t ∧ t.phase = .run ∧
      t.bitSlot.val = s.bitSlot.val + edges.length ∧ t.output = s.output := by
  induction edges generalizing s with
  | nil => exact ⟨s, rfl, hrun, rfl, rfl⟩
  | cons e edges ih =>
    rw [List.length_cons] at hlen ⊢
    obtain ⟨u, hedge, hurun, huslot, huout⟩ := exec_edge_of_dataDue (s := s) ⟨hrun, by omega⟩ e.1 e.2.1 e.2.2
    obtain ⟨t, hexec, htrun, htslot, htout⟩ := ih hurun (by omega)
    exact ⟨t, (execAll_cons hedge _).trans hexec, htrun, by omega, htout.trans huout⟩

theorem nineEdges_eq_map (dins douts : Fin 8 → Level) (pos : Fin 9 → Pos) (syncDin syncDout : Level) :
    ∃ edges : List (Level × Level × Pos), edges.length = 9 ∧
      nineEdges dins douts pos syncDin syncDout = edges.map fun e => .edge e.1 e.2.1 e.2.2 :=
  ⟨[(dins 0, douts 0, pos 0), (dins 1, douts 1, pos 1), (dins 2, douts 2, pos 2), (dins 3, douts 3, pos 3),
    (dins 4, douts 4, pos 4), (dins 5, douts 5, pos 5), (dins 6, douts 6, pos 6), (dins 7, douts 7, pos 7),
    (syncDin, syncDout, pos 8)], rfl, rfl⟩

/-- Up to eight of the nine edges of a frame emit nothing; they leave the slot at their number (R126, R129). -/
theorem execAll_take_nineEdges {s : State} (hrun : s.phase = .run) (h0 : s.bitSlot = 0) (dins douts : Fin 8 → Level)
    (pos : Fin 9 → Pos) (syncDin syncDout : Level) {k : Nat} (hk : k ≤ 8) :
    ∃ t, execAll ((nineEdges dins douts pos syncDin syncDout).take k) s = .next t ∧ t.phase = .run ∧
      t.bitSlot.val = k ∧ t.output = s.output := by
  obtain ⟨edges, hnine, hmap⟩ := nineEdges_eq_map dins douts pos syncDin syncDout
  have hlen : s.bitSlot.val + (edges.take k).length = k := by
    rw [h0, List.length_take, hnine, Fin.val_zero]; omega
  have hexec := execAll_dataEdges (edges.take k) hrun (hlen.trans_le hk)
  rwa [hlen, List.map_take, ← hmap] at hexec

/-! ### A sample at a falling clock -/

/-- A sample at a fall is the edge with its levels, after the write of `prev_clk` (R171). -/
theorem exec_sample_of_fall {s : State} (hrun : s.phase = .run) (hclk : s.prevClk = some true)
    (din dout msel : Level) (pos : Pos) :
    exec (.sample false din dout msel pos) s = exec (.edge din dout pos) (setPrevClk false s) := by
  have hfall : clockFalls s.prevClk false = true := (clockFalls_iff ..).mpr ⟨hclk, rfl⟩
  rw [exec, execSample, if_pos hrun, if_pos hfall, exec, execEdge]

/-! ### The statements -/

/-- Settles O7: one equation for each case of the edge, the shifts read as arithmetic. -/
theorem edgeFollowsItsPseudocode : Obligations.EdgeFollowsItsPseudocode := by
  unfold Obligations.EdgeFollowsItsPseudocode
  refine ⟨fun _ _ _ _ => rfl, fun s din dout pos h => ?idle, fun s din dout pos hrun h0 => ?first,
    fun s din dout pos hrun h0 h8 => ?later, fun s din dout pos hdue => exec_edge_of_syncDue hdue din dout pos, ?power⟩
  case idle => rw [exec, execEdge, edgeStep_idle h]
  case first =>
    rw [exec_edge_opensFrame hrun (Fin.ext h0), pushMsbFirst_eq_ofNat, orAtSlot_eq_or_ofNat]
    simp [inFrame, gateDout]
  case later =>
    refine ⟨s.bitSlot + 1, slot_succ_val ⟨hrun, h8⟩, ?_⟩
    rw [exec_edge_of_midFrame hrun (Fin.ne_of_val_ne h0.ne') h8, pushMsbFirst_eq_ofNat, orAtSlot_eq_or_ofNat]
    rfl
  case power => exact ⟨_, rfl, by decide⟩

/-- Settles O8: at slot 0 FRAME_START is `startFrame`, and the edge that runs it shifts its level into a 0. -/
theorem frameStartRecordsThePosition : Obligations.FrameStartRecordsThePosition := by
  unfold Obligations.FrameStartRecordsThePosition
  refine ⟨fun s pos hrun h0 => ⟨exec_frameStart hrun h0 pos, fun old => ?_,
    fun hinv => accumulators_eq_zero_of_boundary hinv hrun h0, fun din dout => ?_⟩, fun s hrun h0 => ?_⟩
  · rw [exec_frameStart hrun h0, exec_frameStart (s := { s with startPos := old }) hrun h0]
    rfl
  · exact ⟨_, exec_edge_opensFrame hrun h0 din dout pos, rfl, rfl, pushMsbFirst_zero_toNat din⟩
  · exact ⟨_, exec_edge_opensFrame hrun h0 false false 100, rfl⟩

/-- Settles O9: below slot 8 the data-in byte of a reachable state is below 128, so that doubling it loses nothing. -/
theorem shiftDataInDoublesAndAdds : Obligations.ShiftDataInDoublesAndAdds := by
  unfold Obligations.ShiftDataInDoublesAndAdds
  refine ⟨fun s din hdue => ⟨_, exec_shiftDin hdue din, pushMsbFirst_toNat s.dinAcc din, fun hinv => ?reachable⟩,
    fun s dout pos hrun hacc h5 => ?ruleExample⟩
  case reachable =>
    obtain ⟨hrun, h8⟩ := hdue
    obtain ⟨hdin, -⟩ := hinv.1 hrun
    have hpow : 2 ^ s.bitSlot.val ≤ 2 ^ 7 := Nat.pow_le_pow_right (by decide) (Nat.le_of_lt_succ h8)
    exact ⟨hdin, hdin.trans_le hpow, pushMsbFirst_toNat_of_lt h8 hdin din⟩
  case ruleExample =>
    refine ⟨_, exec_edge_of_midFrame hrun (by rw [h5]; decide) (by rw [h5]; decide) true dout pos, ?_⟩
    simp only [hacc, h5]
    decide

/-- Settles O10: ORing at the slot touches that bit alone, and an unconfigured wire is gated to 0. -/
theorem shiftDataOutSetsTheSlotBit : Obligations.ShiftDataOutSetsTheSlotBit := by
  unfold Obligations.ShiftDataOutSetsTheSlotBit
  refine ⟨fun s dout hdue => ⟨_, _, exec_shiftDout hdue dout, slot_succ_val hdue,
    getLsbD_orAtSlot s.doutAcc (gateDout dout s.hasDout) hdue.2, fun hgate => ⟨?unchanged, ?unread⟩,
    fun hinv j hj => doutAcc_getLsbD_of_slot_le hinv hdue.1 hj⟩, fun s din pos hrun hgate hacc h5 => ?configured,
    fun s din pos hrun hgate hacc h5 => ?unconfigured⟩
  case unchanged => rw [hgate, gateDout_false, orAtSlot_false]
  case unread =>
    rw [exec_shiftDout hdue, exec_shiftDout hdue]
    simp only [shiftDataOut, hgate, gateDout_false]
  case configured =>
    refine ⟨_, exec_edge_of_midFrame hrun (by rw [h5]; decide) (by rw [h5]; decide) din true pos, ?_⟩
    simp only [hgate, hacc, h5]
    decide
  case unconfigured =>
    refine ⟨_, exec_edge_of_midFrame hrun (by rw [h5]; decide) (by rw [h5]; decide) din true pos, ?_⟩
    simp only [hgate, hacc, h5]
    decide

/-- Settles O11: SYNC and the sync edge have the same burst and clears; only the edge writes `last_pos`. -/
theorem syncEmitsTheBurstAndClears : Obligations.SyncEmitsTheBurstAndClears := by
  unfold Obligations.SyncEmitsTheBurstAndClears
  refine ⟨fun s pos hdue => ⟨exec_sync hdue pos, fun din dout => ?edge⟩, fun s hdue hstart hdin hgate => ?ruleExample⟩
  case edge =>
    have hdue' : SyncDue { s with lastPos := some pos } := hdue
    rw [exec_edge_of_syncDue hdue, exec_sync hdue']
    rfl
  case ruleExample =>
    rw [exec_edge_of_syncDue hdue, startPosValue_of_some hstart, hdin, hgate]
    rfl

/-- Settles O13: eight data edges reach slot 8 without a record, and only the ninth edge emits. -/
theorem dataEdgeNeverFinalises : Obligations.DataEdgeNeverFinalises := by
  unfold Obligations.DataEdgeNeverFinalises
  refine ⟨fun s din dout pos hdue => ?oneEdge, fun s dins douts pos syncDin syncDout hrun h0 => ?nineEdges⟩
  case oneEdge =>
    obtain ⟨t, hexec, -, hslot, hout⟩ := exec_edge_of_dataDue hdue din dout pos
    exact ⟨t, hexec, hslot, hout⟩
  case nineEdges =>
    obtain ⟨t8, height, hrun8, hslot8, hout8⟩ :=
      execAll_take_nineEdges hrun h0 dins douts pos syncDin syncDout (le_refl 8)
    have hdue : SyncDue t8 := ⟨hrun8, Fin.ext hslot8⟩
    have hninth := exec_edge_of_syncDue hdue syncDin syncDout (pos 8)
    have hburst := List.ne_nil_of_mem (dataIn_mem_burst t8.startPosValue (pos 8) t8.dinAcc t8.doutAcc t8.hasDout)
    refine ⟨t8, _, height, Fin.ext hslot8, hout8,
      (execAll_append height [.edge syncDin syncDout (pos 8)]).trans (execAll_cons hninth []), rfl, ?_⟩
    rw [← hout8]
    simpa using hburst

/-- Settles O14: the sync edge's next state does not mention its levels, and a sample at a fall is that edge. -/
theorem syncEdgeLevelsHaveNoEffect : Obligations.SyncEdgeLevelsHaveNoEffect := by
  unfold Obligations.SyncEdgeLevelsHaveNoEffect
  intro s din dout din' dout' pos hdue
  refine ⟨⟨_, exec_edge_of_syncDue hdue din dout pos, exec_edge_of_syncDue hdue din' dout' pos⟩,
    fun msel msel' hclk => ?_⟩
  have hdue' : SyncDue (setPrevClk false s) := hdue
  rw [exec_sample_of_fall hdue.1 hclk, exec_sample_of_fall hdue.1 hclk]
  exact ⟨_, exec_edge_of_syncDue hdue' din dout pos, exec_edge_of_syncDue hdue' din' dout' pos⟩

end Sys2Proof.Proofs
end

section
/-! SUPPORT. Positions are only copied (R122): mapping every position commutes with each micro-operation of an edge. -/

namespace Sys2Proof.Proofs

open Sys2Proof.Machine Sys2Proof.Statements

/-! ### A map of positions through an edge -/

/-- A record with both ends of its span mapped. -/
def mapRecord (f : Pos → Pos) (r : Record) : Record := { r with start := f r.start, stop := f r.stop }

theorem mapPositions_output (f : Pos → Pos) (s : State) : (mapPositions f s).output = s.output.map (mapRecord f) := rfl

/-- The burst over a mapped span is the mapped burst: no record depends on what its positions are. -/
theorem burst_map (f : Pos → Pos) (start stop : Pos) (din dout : Byte) (gate : Level) :
    burst (f start) (f stop) din dout gate = (burst start stop din dout gate).map (mapRecord f) := by
  by_cases h : din ∈ opcodes <;> cases gate <;> simp [burst, h, mapRecord]

theorem setLastPos_mapPositions (f : Pos → Pos) (pos : Pos) (s : State) :
    setLastPos (f pos) (mapPositions f s) = mapPositions f (setLastPos pos s) := rfl

theorem startFrame_mapPositions (f : Pos → Pos) (pos : Pos) (s : State) :
    startFrame (f pos) (mapPositions f s) = mapPositions f (startFrame pos s) := rfl

theorem shift_mapPositions (f : Pos → Pos) (din dout : Level) (s : State) :
    shiftDataOut dout (shiftDataIn din (mapPositions f s)) = mapPositions f (shiftDataOut dout (shiftDataIn din s)) :=
  rfl

/-- SYNC commutes where it reads a frame start that is held: the free value of U5 is not mapped (log entry 4). -/
theorem syncFrame_mapPositions (f : Pos → Pos) (pos : Pos) {s : State} (hstart : s.startPos ≠ none) :
    syncFrame (f pos) (mapPositions f s) = mapPositions f (syncFrame pos s) := by
  obtain ⟨p, hp⟩ := Option.ne_none_iff_exists'.mp hstart
  have hmapped : (mapPositions f s).startPosValue = f p := startPosValue_of_some (congrArg (Option.map f) hp)
  rw [syncFrame, syncFrame, emitFrame_eq_burst, emitFrame_eq_burst, hmapped, startPosValue_of_some hp, burst_map,
    mapPositions_output, ← List.map_append]
  rfl

/-- An edge commutes with every map of positions, in each of its cases (R122). -/
theorem edgeStep_mapPositions (f : Pos → Pos) {s : State} (hstart : SyncDue s → s.startPos ≠ none)
    (din dout : Level) (pos : Pos) :
    edgeStep din dout (f pos) (mapPositions f s) = mapPositions f (edgeStep din dout pos s) := by
  obtain ⟨hidle, h⟩ | ⟨hrun, h0, h⟩ | ⟨hrun, h0, h8, h⟩ | ⟨hrun, h8, h⟩ := edgeStep_cases din dout pos s <;> rw [h]
  · exact edgeStep_idle (s := mapPositions f s) hidle ..
  · rw [edgeStep_first (s := mapPositions f s) hrun h0, setLastPos_mapPositions, startFrame_mapPositions,
      shift_mapPositions]
  · rw [edgeStep_data (s := mapPositions f s) hrun h0 h8, setLastPos_mapPositions, shift_mapPositions]
  · rw [edgeStep_sync (s := mapPositions f s) hrun h8, setLastPos_mapPositions]
    exact syncFrame_mapPositions f pos (s := setLastPos pos s) (hstart ⟨hrun, h8⟩)

/-! ### The position registers after an edge -/

/-- A running edge stores its position in `last_pos`, and in `start_pos` at slot 0 alone (R122). -/
theorem edgeStep_writes_positions {s : State} (hrun : s.phase = .run) (din dout : Level) (pos : Pos) :
    (edgeStep din dout pos s).lastPos = some pos ∧
      (edgeStep din dout pos s).startPos = if s.bitSlot = 0 then some pos else s.startPos := by
  obtain ⟨hidle, -⟩ | ⟨-, h0, h⟩ | ⟨-, h0, -, h⟩ | ⟨-, h8, h⟩ := edgeStep_cases din dout pos s
  · exact absurd hrun hidle
  · simp [h, h0]
  · simp [h, h0]
  · simp [h, h8, syncFrame, emitFrame_eq_burst]

/-- Settles O15: where each case of the edge puts its position, and that a map of positions passes through each. -/
theorem positionsAreOnlyCopied : Obligations.PositionsAreOnlyCopied := by
  unfold Obligations.PositionsAreOnlyCopied
  refine ⟨fun s din dout pos hrun => ?registers, fun f s din dout pos hstart => ?commutes⟩
  case registers =>
    obtain ⟨hlast, hstart⟩ := edgeStep_writes_positions hrun din dout pos
    refine ⟨edgeStep din dout pos s, rfl, hlast, fun h0 => hstart.trans (if_pos h0),
      fun h0 => hstart.trans (if_neg h0), fun h8 => ?_⟩
    rw [edgeStep_sync hrun h8, syncFrame, closeFrame_output, emitFrame_eq_burst]
    rfl
  case commutes =>
    exact ⟨edgeStep din dout pos s, rfl, congrArg Host.Outcome.next (edgeStep_mapPositions f hstart din dout pos)⟩

end Sys2Proof.Proofs
end

section
/-! SUPPORT. A frame in progress when its session ends is dropped (R129): outside phase RUN no transaction emits, and
none but SESSION_START leaves these phases. -/

namespace Sys2Proof.Proofs

open Sys2Proof.Machine Sys2Proof.Statements

/-- Outside phase RUN a transaction that starts no session emits nothing and keeps the phase (R129, R177). -/
theorem exec_outsideRun {i : Instr} (htxn : isTransaction i = true) (hstart : ∀ cfg, i ≠ .sessionStart cfg)
    {s : State} (hidle : s.phase ≠ .run) :
    ∃ t, exec i s = .next t ∧ t.phase = s.phase ∧ t.output = s.output := by
  cases i with
  | sessionStart cfg => exact absurd rfl (hstart cfg)
  | samplerate | reservedOp5 | reservedOp6_7 => exact ⟨_, rfl, rfl, rfl⟩
  | sample => exact ⟨s, congrArg Host.Outcome.next (if_neg hidle), rfl, rfl⟩
  | edge => exact ⟨s, congrArg Host.Outcome.next (edgeStep_idle hidle ..), rfl, rfl⟩
  | endOfStream => exact ⟨s, congrArg Host.Outcome.next (if_neg hidle), rfl, rfl⟩
  | setOffsetL | setOffsetH | setData | getOffset | readFlash | ping | readCustom | setXpage | writeFlash
  | writeCustom | frameStart | shiftDin | shiftDout | sync | recDataIn | recCommand | recDataOut | recSync
  | recWarning => exact absurd htxn Bool.false_ne_true

/-- Whatever follows the end of a session, short of a new one, emits nothing (R129). -/
theorem execAll_outsideRun {is : List Instr} (his : NoStart is) {s : State} (hidle : s.phase ≠ .run) :
    ∃ t, execAll is s = .next t ∧ t.output = s.output := by
  induction is generalizing s with
  | nil => exact ⟨s, rfl, rfl⟩
  | cons i rest ih =>
    obtain ⟨⟨htxn, hstart⟩, hrest⟩ := List.forall_mem_cons.mp his
    obtain ⟨u, hexec, hphase, hout⟩ := exec_outsideRun htxn hstart hidle
    obtain ⟨t, hall, hout'⟩ := ih hrest (hphase ▸ hidle)
    exact ⟨t, (execAll_cons hexec rest).trans hall, hout'.trans hout⟩

/-- Settles O16: END_OF_STREAM leaves phase RUN, SESSION_START clears without emitting, and only a ninth edge emits. -/
theorem unfinishedFrameIsDropped : Obligations.UnfinishedFrameIsDropped := by
  unfold Obligations.UnfinishedFrameIsDropped
  refine ⟨fun s is hrun his => ?endOfStream, fun s cfg => ?newSession,
    fun s dins douts pos syncDin syncDout k hrun h0 hk => ?ceased⟩
  case endOfStream =>
    have hend : exec .endOfStream s = .next (endSession s) := congrArg Host.Outcome.next (if_pos hrun)
    have hidle : (endSession s).phase ≠ .run := by simp
    rw [execAll_cons hend]
    exact execAll_outsideRun his hidle
  case newSession =>
    obtain ⟨-, h⟩ | ⟨-, h⟩ := execSessionStart_cases cfg s
    · exact ⟨_, h, rfl, rfl, rfl, rfl⟩
    · exact ⟨_, h, rfl, rfl, rfl, rfl⟩
  case ceased =>
    obtain ⟨t, hexec, -, -, hout⟩ := execAll_take_nineEdges hrun h0 dins douts pos syncDin syncDout hk
    exact ⟨t, hexec, hout⟩

end Sys2Proof.Proofs
end

section
/-! SUPPORT. The event emitter (R140 to R143): the category codes of the encoded records, and the four record operations
of a burst in their order. -/

namespace Sys2Proof.Proofs

open Sys2Proof.Machine Sys2Proof.Statements

/-! ### The category code -/

/-- An encoded record begins with the three bits of its category code (R74, R78). -/
theorem recCode_take_cat (w : Widths) (cat : Nat) (start stop : Pos) (value : Byte) :
    (recCode w cat start stop value).bits.take 3 = toBits 3 cat :=
  List.take_left' (length_toBits 3 cat)

/-! ### The burst from the record operations -/

/-- The COMMAND record leaves the gate of the DATA_OUT record as it was. -/
@[simp] theorem emitCommand_hasDout (start stop : Pos) (value : Byte) (s : State) :
    (emitCommand start stop value s).hasDout = s.hasDout := by
  rw [emitCommand]
  split
  · exact State.emit_hasDout ..
  · rfl

/-- The four record operations in order are `EmitFrame`, gated by the `has_dout` that the first of them found (R140). -/
theorem execAll_records_eq_emitFrame (start stop : Pos) (din dout : Byte) (s : State) :
    execAll [.recDataIn start stop din, .recCommand start stop din, .recDataOut start stop dout, .recSync stop] s =
      .next (emitFrame start stop din dout s.hasDout s) := by
  have hdataIn : exec (.recDataIn start stop din) s = .next (emitDataIn start stop din s) := rfl
  have hcommand (t : State) : exec (.recCommand start stop din) t = .next (emitCommand start stop din t) := rfl
  have hdataOut (t : State) :
      exec (.recDataOut start stop dout) t = .next (emitDataOut start stop dout t.hasDout t) := rfl
  have hsync (t : State) : exec (.recSync stop) t = .next (emitSync stop t) := rfl
  rw [execAll_cons hdataIn, execAll_cons (hcommand _), execAll_cons (hdataOut _), execAll_cons (hsync _), execAll_nil,
    emitCommand_hasDout, emitDataIn, State.emit_hasDout, emitFrame, emitDataIn]

/-- The four record operations in order emit the burst and write no register (R140). -/
theorem execAll_records_eq_burst (start stop : Pos) (din dout : Byte) (s : State) :
    execAll [.recDataIn start stop din, .recCommand start stop din, .recDataOut start stop dout, .recSync stop] s =
      .next { s with output := s.output ++ burst start stop din dout s.hasDout } := by
  rw [execAll_records_eq_emitFrame, emitFrame_eq_burst]

/-- A burst has two records, and one more for each condition that holds (R140). -/
theorem length_burst (start stop : Pos) (din dout : Byte) (gate : Level) :
    (burst start stop din dout gate).length = 2 + (if din ∈ opcodes then 1 else 0) + gate.toNat := by
  by_cases h : din ∈ opcodes <;> cases gate <;> simp [burst_eq, h]

theorem length_burst_bounds (start stop : Pos) (din dout : Byte) (gate : Level) :
    2 ≤ (burst start stop din dout gate).length ∧ (burst start stop din dout gate).length ≤ 4 := by
  have hgate := Bool.toNat_le gate
  rw [length_burst]
  split <;> omega

/-! ### The statements -/

/-- Settles O20: the codes are the heads of the encodings, SYNC's burst is R140's list, the strings are those of O26. -/
theorem recordsEmitUnderTheirConditions : Obligations.RecordsEmitUnderTheirConditions := by
  unfold Obligations.RecordsEmitUnderTheirConditions
  obtain ⟨hshapes, -, hdataIn, hcommand, -⟩ := displayStringsFollowTheirShapes
  refine ⟨fun w start stop value => ⟨recCode_take_cat w 0 start stop value, recCode_take_cat w 2 start stop value,
    recCode_take_cat w 1 start stop value⟩, fun s pos hdue => ⟨_, exec_sync hdue pos, ?burst⟩, hdataIn, ?dataOut,
    hcommand, ?notOpcode, fun r value => ?strings⟩
  case burst => rw [burst_eq]
  case dataOut => decide
  case notOpcode => decide
  case strings =>
    obtain ⟨hin, hout, -, hmem⟩ := hshapes r value
    exact ⟨hin, hout, hmem⟩

/-- Settles O21: SYNC and the four record operations append the same burst, whose length is bounded by its table. -/
theorem burstIsTheFourRecordsInOrder : Obligations.BurstIsTheFourRecordsInOrder := by
  unfold Obligations.BurstIsTheFourRecordsInOrder
  refine ⟨fun s pos hdue => ?fourRecords, fun s hdue hstart hdin hdout hgate => ?ruleExample⟩
  case fourRecords =>
    obtain ⟨hmin, hmax⟩ := length_burst_bounds s.startPosValue pos s.dinAcc s.doutAcc s.hasDout
    refine ⟨_, _, exec_sync hdue pos, execAll_records_eq_burst s.startPosValue pos s.dinAcc s.doutAcc s, rfl, rfl, ?_⟩
    rw [List.length_append]
    exact ⟨Nat.add_le_add_left hmin _, Nat.add_le_add_left hmax _⟩
  case ruleExample =>
    refine ⟨_, exec_sync hdue 90, ?_⟩
    rw [startPosValue_of_some hstart, hdin, hdout, hgate]
    rfl

end Sys2Proof.Proofs
end

section
/-! SUPPORT. The session registers and the configuration error: what an operation can do to the phase, the cause and
the capability flags (R190, R202, `60_exceptions.md` section 6). -/

namespace Sys2Proof.Proofs

open Sys2Proof.Machine Sys2Proof.Statements

/-! ### The operations that keep the session registers -/

/-- The state `t` has the registers of `s` that only a session start writes, and its phase. -/
structure KeepsSession (s t : State) : Prop where
  phase : t.phase = s.phase
  faultCause : t.faultCause = s.faultCause
  hasDout : t.hasDout = s.hasDout
  hasMsel : t.hasMsel = s.hasMsel
  initCount : t.initCount = s.initCount

namespace KeepsSession

variable {s t u : State}

theorem refl (s : State) : KeepsSession s s := ⟨rfl, rfl, rfl, rfl, rfl⟩

theorem trans (hst : KeepsSession s t) (htu : KeepsSession t u) : KeepsSession s u where
  phase := htu.phase.trans hst.phase
  faultCause := htu.faultCause.trans hst.faultCause
  hasDout := htu.hasDout.trans hst.hasDout
  hasMsel := htu.hasMsel.trans hst.hasMsel
  initCount := htu.initCount.trans hst.initCount

/-- A part of an edge that is not selected changes nothing (R134). -/
theorem ite {c : Prop} [Decidable c] (h : KeepsSession s t) : KeepsSession s (if c then t else s) := by
  split
  · exact h
  · exact refl s

end KeepsSession

theorem emit_keepsSession (s : State) (cat : Category) (start stop : Pos) (value : Byte) :
    KeepsSession s (s.emit cat start stop value) := ⟨rfl, rfl, rfl, rfl, rfl⟩

theorem syncFrame_keepsSession (pos : Pos) (s : State) : KeepsSession s (syncFrame pos s) := by
  rw [syncFrame, emitFrame_eq_burst]
  exact ⟨rfl, rfl, rfl, rfl, rfl⟩

theorem edgeStep_keepsSession (din dout : Level) (pos : Pos) (s : State) :
    KeepsSession s (edgeStep din dout pos s) := by
  have hpos : KeepsSession s (setLastPos pos s) := ⟨rfl, rfl, rfl, rfl, rfl⟩
  obtain ⟨-, h⟩ | ⟨-, -, h⟩ | ⟨-, -, -, h⟩ | ⟨-, -, h⟩ := edgeStep_cases din dout pos s <;> rw [h]
  · exact .refl s
  · exact ⟨rfl, rfl, rfl, rfl, rfl⟩
  · exact ⟨rfl, rfl, rfl, rfl, rfl⟩
  · exact hpos.trans (syncFrame_keepsSession pos _)

theorem classifyAs_keepsSession (c : Command) (pos : Pos) (s : State) : KeepsSession s (classifyAs c pos s) := by
  obtain ⟨-, -, -, h⟩ | ⟨-, h⟩ := classifyAs_cases c pos s <;> rw [h]
  · exact emit_keepsSession ..
  · exact .refl s

theorem execSample_keepsSession (clk din dout : Level) (pos : Pos) (s : State) :
    ∃ t, execSample clk din dout pos s = .next t ∧ KeepsSession s t := by
  have hclk : KeepsSession s (setPrevClk clk s) := ⟨rfl, rfl, rfl, rfl, rfl⟩
  obtain ⟨-, h⟩ | ⟨-, -, h⟩ | ⟨-, -, h⟩ := execSample_cases clk din dout pos s
  · exact ⟨_, h, .refl s⟩
  · exact ⟨_, h, hclk.trans (edgeStep_keepsSession din dout pos _)⟩
  · exact ⟨_, h, hclk⟩

/-- Every operation but the two that open and close a session keeps the session registers. -/
theorem exec_keepsSession {i : Instr} (hstart : ∀ cfg, i ≠ .sessionStart cfg) (hend : i ≠ .endOfStream) (s : State) :
    ∃ t, exec i s = .next t ∧ KeepsSession s t := by
  cases i with
  | sessionStart cfg => exact absurd rfl (hstart cfg)
  | endOfStream => exact absurd rfl hend
  | setOffsetL | setOffsetH | setData | getOffset | readFlash | ping | readCustom | setXpage | writeFlash
  | writeCustom => exact ⟨_, rfl, classifyAs_keepsSession ..⟩
  | samplerate => exact ⟨_, rfl, rfl, rfl, rfl, rfl, rfl⟩
  | sample clk din dout msel pos => exact execSample_keepsSession clk din dout pos s
  | edge din dout pos => exact ⟨_, rfl, edgeStep_keepsSession din dout pos s⟩
  | reservedOp5 | reservedOp6_7 | recWarning => exact ⟨_, rfl, .refl s⟩
  | frameStart | shiftDin | shiftDout => exact ⟨_, rfl, .ite ⟨rfl, rfl, rfl, rfl, rfl⟩⟩
  | sync pos => exact ⟨_, rfl, .ite (syncFrame_keepsSession pos s)⟩
  | recCommand | recDataOut => exact ⟨_, rfl, .ite (emit_keepsSession ..)⟩
  | recDataIn | recSync => exact ⟨_, rfl, emit_keepsSession ..⟩

/-! ### Everything an operation can do to the session registers -/

/-- An operation raises the configuration error (R190), starts a session (R160), ends one (R175), or keeps the session
registers; only SESSION_START does the first two, only END_OF_STREAM the third. -/
theorem exec_session_cases {i : Instr} {s t : State} (h : exec i s = .next t) :
    (∃ cfg, i = .sessionStart cfg ∧ causeMask cfg ≠ 0 ∧ t = raiseConfigError (causeMask cfg) s) ∨
    (∃ cfg, i = .sessionStart cfg ∧ causeMask cfg = 0 ∧ t = startSession cfg s) ∨
    (i = .endOfStream ∧ s.phase = .run ∧ t = endSession s) ∨
    KeepsSession s t := by
  have next_eq {u : State} (hu : exec i s = .next u) : t = u := Host.Outcome.next.inj (h.symm.trans hu)
  by_cases hstart : ∃ cfg, i = .sessionStart cfg
  · obtain ⟨cfg, rfl⟩ := hstart
    obtain ⟨hcause, hu⟩ | ⟨hcause, hu⟩ := execSessionStart_cases cfg s
    · exact .inl ⟨cfg, rfl, hcause, next_eq hu⟩
    · exact .inr (.inl ⟨cfg, rfl, hcause, next_eq hu⟩)
  by_cases hend : i = .endOfStream
  · subst hend
    by_cases hrun : s.phase = .run
    · exact .inr (.inr (.inl ⟨rfl, hrun, next_eq (congrArg Host.Outcome.next (if_pos hrun))⟩))
    · obtain rfl := next_eq (congrArg Host.Outcome.next (if_neg hrun))
      exact .inr (.inr (.inr (.refl t)))
  · obtain ⟨u, hu, hkeeps⟩ := exec_keepsSession (not_exists.mp hstart) hend s
    obtain rfl := next_eq hu
    exact .inr (.inr (.inr hkeeps))

/-- Outside phase RUN, operations of which none is SESSION_START keep the session registers. -/
theorem execAll_outsideRun_keepsSession {is : List Instr} (his : ∀ i ∈ is, ∀ cfg, i ≠ .sessionStart cfg)
    {s t : State} (hidle : s.phase ≠ .run) (h : execAll is s = .next t) : KeepsSession s t := by
  induction is generalizing s with
  | nil => obtain rfl := Host.Outcome.next.inj h; exact .refl s
  | cons i rest ih =>
    obtain ⟨hstart, hrest⟩ := List.forall_mem_cons.mp his
    obtain ⟨u, hu, -⟩ := exec_appends i s
    rw [execAll_cons hu] at h
    obtain ⟨cfg, hi, -, -⟩ | ⟨cfg, hi, -, -⟩ | ⟨-, hrun, -⟩ | hkeeps := exec_session_cases hu
    · exact absurd hi (hstart cfg)
    · exact absurd hi (hstart cfg)
    · exact absurd hrun hidle
    · exact hkeeps.trans (ih hrest (hkeeps.phase ▸ hidle) h)

/-- A nonzero cause is a required wire that is not configured (R161). -/
theorem causeMask_ne_zero_iff (cfg : Capabilities) : causeMask cfg ≠ 0 ↔ cfg.hasClk = false ∨ cfg.hasDin = false := by
  rw [ne_eq, causeMask_eq_zero_iff, not_and_or, Bool.not_eq_true, Bool.not_eq_true]

/-! ### The statements -/

/-- Settles O40: of the four things an operation can do to the phase, only the configuration error leads to FAULT. -/
theorem onlySessionStartFaults : Obligations.OnlySessionStartFaults := by
  unfold Obligations.OnlySessionStartFaults
  refine ⟨fun i s t hexec hfault hsafe => ?entered, fun i s => ?completes⟩
  case entered =>
    obtain ⟨cfg, hi, hcause, -⟩ | ⟨cfg, -, -, rfl⟩ | ⟨-, -, rfl⟩ | hkeeps := exec_session_cases hexec
    · exact ⟨cfg, hi, (causeMask_ne_zero_iff cfg).mp hcause⟩
    · exact absurd hfault (by simp)
    · exact absurd hfault (by simp)
    · exact absurd (hkeeps.phase.symm.trans hfault) hsafe
  case completes =>
    obtain ⟨t, hexec, -⟩ := exec_appends i s
    exact ⟨t, hexec⟩

/-- Settles O41: FAULT is outside phase RUN, where only SESSION_START writes the session registers and nothing emits. -/
theorem faultIsSticky : Obligations.FaultIsSticky := by
  unfold Obligations.FaultIsSticky
  refine ⟨fun s is hfault his => ?sticky, fun s => Iff.rfl⟩
  have hidle : s.phase ≠ .run := by simp [hfault]
  obtain ⟨t, hall, hout⟩ := execAll_outsideRun his hidle
  have hkeeps := execAll_outsideRun_keepsSession (fun i hi => (his i hi).2) hidle hall
  exact ⟨t, hall, hkeeps.phase.trans hfault, hkeeps.faultCause, hout⟩

end Sys2Proof.Proofs
end

section
/-! SUPPORT. A session has no memory of an earlier one (R225): two states that agree on the session registers answer
each transaction with the same records and agree after it. -/

namespace Sys2Proof.Proofs

open Sys2Proof.Machine Sys2Proof.Statements

/-! ### What lies outside a session -/

/-- The state with all that `SameSession` leaves out replaced: rate, streams, and the key of the free value of U5. -/
def replaceOutside (rate : Option Rate) (input : List BitString) (output : List Record) (key : Nat) (s : State) :
    State :=
  { s with samplerate := rate, input := input, output := output, initCount := key }

theorem sameSession_replaceOutside (rate : Option Rate) (input : List BitString) (output : List Record) (key : Nat)
    (s : State) : SameSession s (replaceOutside rate input output key s) :=
  ⟨rfl, rfl, rfl, rfl, rfl, rfl, rfl, rfl, rfl, rfl⟩

/-- States that agree on the session registers differ by a replacement of what lies outside. -/
theorem exists_eq_replaceOutside {s s' : State} (h : SameSession s s') :
    ∃ rate input output key, s' = replaceOutside rate input output key s := by
  obtain ⟨⟩ := s
  obtain ⟨⟩ := s'
  obtain ⟨rfl, rfl, rfl, rfl, rfl, rfl, rfl, rfl, rfl, rfl⟩ := h
  exact ⟨_, _, _, _, rfl⟩

/-- A write that emits nothing and carries nothing from outside the session into it. -/
def QuietWrite (f : State → State) : Prop :=
  ∀ rate input output key s, (f s).output = s.output ∧
    ∃ rate' key', f (replaceOutside rate input output key s) = replaceOutside rate' input output key' (f s)

/-! ### States that replay alike -/

/-- Two states that agree on the session registers and have emitted the same records since their outputs were `old` and
`old'`. Inside a frame they hold its start, so that the sync edge does not read the free value of U5. -/
structure ReplayAlike (old old' : List Record) (s s' : State) : Prop where
  session : SameSession s s'
  appended : ∃ new, s.output = old ++ new ∧ s'.output = old' ++ new
  frameStart : s.bitSlot ≠ 0 → s.startPos ≠ none

section Replay

variable {old old' : List Record} {s s' : State}

/-- A quiet write keeps replaying alike, if it keeps the start of the frame. -/
theorem ReplayAlike.quietWrite {f : State → State} (h : ReplayAlike old old' s s') (hquiet : QuietWrite f)
    (hframe : (f s).bitSlot ≠ 0 → (f s).startPos ≠ none) : ReplayAlike old old' (f s) (f s') := by
  obtain ⟨rate, input, output, key, rfl⟩ := exists_eq_replaceOutside h.session
  obtain ⟨hout, rate', key', hf⟩ := hquiet rate input output key s
  rw [hf]
  exact ⟨sameSession_replaceOutside .., hout ▸ h.appended, hframe⟩

theorem ReplayAlike.setLastPos (h : ReplayAlike old old' s s') (pos : Pos) :
    ReplayAlike old old' (setLastPos pos s) (setLastPos pos s') :=
  h.quietWrite (fun _ _ _ _ _ => ⟨rfl, _, _, rfl⟩) h.frameStart

theorem ReplayAlike.setPrevClk (h : ReplayAlike old old' s s') (clk : Level) :
    ReplayAlike old old' (setPrevClk clk s) (setPrevClk clk s') :=
  h.quietWrite (fun _ _ _ _ _ => ⟨rfl, _, _, rfl⟩) h.frameStart

theorem ReplayAlike.setSamplerate (h : ReplayAlike old old' s s') (rate : Rate) :
    ReplayAlike old old' (setSamplerate rate s) (setSamplerate rate s') :=
  h.quietWrite (fun _ _ _ _ _ => ⟨rfl, _, _, rfl⟩) h.frameStart

theorem ReplayAlike.endSession (h : ReplayAlike old old' s s') :
    ReplayAlike old old' (endSession s) (endSession s') :=
  h.quietWrite (fun _ _ _ _ _ => ⟨rfl, _, _, rfl⟩) h.frameStart

theorem ReplayAlike.startFrame (h : ReplayAlike old old' s s') (pos : Pos) :
    ReplayAlike old old' (startFrame pos s) (startFrame pos s') :=
  h.quietWrite (fun _ _ _ _ _ => ⟨rfl, _, _, rfl⟩) fun _ => Option.some_ne_none pos

theorem ReplayAlike.shift (h : ReplayAlike old old' s s') (hstart : s.startPos ≠ none) (din dout : Level) :
    ReplayAlike old old' (shiftDataOut dout (shiftDataIn din s)) (shiftDataOut dout (shiftDataIn din s')) :=
  h.quietWrite (f := fun u => shiftDataOut dout (shiftDataIn din u)) (fun _ _ _ _ _ => ⟨rfl, _, _, rfl⟩)
    fun _ => hstart

/-- SYNC appends one burst to both outputs: it reads a frame start that is held, and no key (R125). -/
theorem ReplayAlike.syncFrame (h : ReplayAlike old old' s s') (hstart : s.startPos ≠ none) (pos : Pos) :
    ReplayAlike old old' (syncFrame pos s) (syncFrame pos s') := by
  obtain ⟨hsession, ⟨new, hnew, hnew'⟩, -⟩ := h
  obtain ⟨rate, input, output, key, rfl⟩ := exists_eq_replaceOutside hsession
  obtain ⟨start, hs⟩ := Option.ne_none_iff_exists'.mp hstart
  have hs' : (replaceOutside rate input output key s).startPosValue = start := startPosValue_of_some hs
  rw [Machine.syncFrame, Machine.syncFrame, emitFrame_eq_burst, emitFrame_eq_burst, startPosValue_of_some hs, hs',
    hnew, hnew', List.append_assoc, List.append_assoc]
  exact ⟨⟨rfl, rfl, rfl, rfl, rfl, rfl, rfl, rfl, rfl, rfl⟩, ⟨_, rfl, rfl⟩, fun h0 => absurd rfl h0⟩

/-! ### One transaction -/

/-- An edge takes the same case in both states. -/
theorem ReplayAlike.edgeStep (h : ReplayAlike old old' s s') (din dout : Level) (pos : Pos) :
    ReplayAlike old old' (edgeStep din dout pos s) (edgeStep din dout pos s') := by
  obtain ⟨hphase, -, -, -, hslot, -⟩ := h.session
  obtain ⟨hidle, he⟩ | ⟨hrun, h0, he⟩ | ⟨hrun, h0, h8, he⟩ | ⟨hrun, h8, he⟩ := edgeStep_cases din dout pos s <;> rw [he]
  · rw [edgeStep_idle (hphase ▸ hidle)]
    exact h
  · rw [edgeStep_first (hphase ▸ hrun) (hslot ▸ h0)]
    exact ((h.setLastPos pos).startFrame pos).shift (Option.some_ne_none pos) din dout
  · rw [edgeStep_data (hphase ▸ hrun) (hslot ▸ h0) (hslot ▸ h8)]
    exact (h.setLastPos pos).shift (h.frameStart h0) din dout
  · rw [edgeStep_sync (hphase ▸ hrun) (hslot ▸ h8)]
    exact (h.setLastPos pos).syncFrame (h.frameStart (by rw [h8]; decide)) pos

theorem ReplayAlike.execSample (h : ReplayAlike old old' s s') (clk din dout : Level) (pos : Pos) :
    ∃ t t', execSample clk din dout pos s = .next t ∧ execSample clk din dout pos s' = .next t' ∧
      ReplayAlike old old' t t' := by
  obtain ⟨hphase, -, -, -, -, -, -, -, -, hclk⟩ := h.session
  rw [Machine.execSample, Machine.execSample, ← hphase, ← hclk]
  refine ⟨_, _, rfl, rfl, ?_⟩
  split
  · split
    · exact (h.setPrevClk clk).edgeStep din dout pos
    · exact h.setPrevClk clk
  · exact h

/-- SESSION_START leaves states that replay alike, whatever went before: its cause depends on its flags alone (R160,
R163). -/
theorem exec_sessionStart_replayAlike (cfg : Capabilities)
    (happended : ∃ new, s.output = old ++ new ∧ s'.output = old' ++ new) :
    ∃ t t', exec (.sessionStart cfg) s = .next t ∧ exec (.sessionStart cfg) s' = .next t' ∧
      ReplayAlike old old' t t' := by
  refine ⟨_, _, rfl, rfl, ?_⟩
  split <;> exact ⟨⟨rfl, rfl, rfl, rfl, rfl, rfl, rfl, rfl, rfl, rfl⟩, happended, fun h0 => absurd rfl h0⟩

/-- Of two states that replay alike, every transaction has next states that replay alike. -/
theorem ReplayAlike.exec (h : ReplayAlike old old' s s') {i : Instr} (htxn : isTransaction i = true) :
    ∃ t t', exec i s = .next t ∧ exec i s' = .next t' ∧ ReplayAlike old old' t t' := by
  cases i with
  | sessionStart cfg => exact exec_sessionStart_replayAlike cfg h.appended
  | samplerate rate => exact ⟨_, _, rfl, rfl, h.setSamplerate rate⟩
  | sample clk din dout msel pos => exact h.execSample clk din dout pos
  | edge din dout pos => exact ⟨_, _, rfl, rfl, h.edgeStep din dout pos⟩
  | endOfStream =>
    obtain ⟨hphase, -⟩ := h.session
    refine ⟨_, _, rfl, rfl, ?_⟩
    rw [← hphase]
    split
    · exact h.endSession
    · exact h
  | reservedOp5 | reservedOp6_7 => exact ⟨s, s', rfl, rfl, h⟩
  | setOffsetL | setOffsetH | setData | getOffset | readFlash | ping | readCustom | setXpage | writeFlash
  | writeCustom | frameStart | shiftDin | shiftDout | sync | recDataIn | recCommand | recDataOut | recSync
  | recWarning => exact absurd htxn Bool.false_ne_true

/-! ### Any transactions -/

theorem ReplayAlike.execAll {is : List Instr} (his : ∀ i ∈ is, isTransaction i = true)
    (h : ReplayAlike old old' s s') :
    ∃ t t', execAll is s = .next t ∧ execAll is s' = .next t' ∧ ReplayAlike old old' t t' := by
  induction is generalizing s s' with
  | nil => exact ⟨s, s', rfl, rfl, h⟩
  | cons i rest ih =>
    obtain ⟨htxn, hrest⟩ := List.forall_mem_cons.mp his
    obtain ⟨u, u', hu, hu', hstep⟩ := h.exec htxn
    rw [execAll_cons hu, execAll_cons hu']
    exact ih hrest hstep

end Replay

/-- Settles O50: after a start the slot is 0; two starts leave states that replay alike, and every transaction keeps
them so. -/
theorem freshSessionsReplayAlike : Obligations.FreshSessionsReplayAlike := by
  unfold Obligations.FreshSessionsReplayAlike
  refine ⟨fun s cfg din dout pos hclk hdin => ?firstEdge, fun s s' cfg is his => ?replay⟩
  case firstEdge =>
    have hcause : causeMask cfg = 0 := (causeMask_eq_zero_iff cfg).mpr ⟨hclk, hdin⟩
    have hstart : exec (.sessionStart cfg) s = .next (startSession cfg s) :=
      congrArg Host.Outcome.next (if_neg (not_not_intro hcause))
    have hedge := exec_edge_opensFrame (s := startSession cfg s) rfl rfl din dout pos
    exact ⟨_, (execAll_cons hstart _).trans (execAll_cons hedge []), rfl, rfl⟩
  case replay =>
    obtain ⟨u, u', hu, hu', halike⟩ := exec_sessionStart_replayAlike (s := s) (s' := s') cfg
      ⟨[], (List.append_nil s.output).symm, (List.append_nil s'.output).symm⟩
    obtain ⟨t, t', ht, ht', hsession, ⟨new, hnew, hnew'⟩, -⟩ := halike.execAll his
    exact ⟨t, t', new, (execAll_cons hu is).trans ht, (execAll_cons hu' is).trans ht', hnew, hnew', hsession⟩

end Sys2Proof.Proofs
end

section
/-! SUPPORT. The encodings (`30_encoding.md`): a word is read back field by field, and the rows of the opcode table tell
the operations of a format apart. -/

namespace Sys2Proof.Proofs

open Sys2Proof.Machine Sys2Proof.Statements

/-! ### Fields of open width -/

theorem ofBits_toBits_of_posFits {w : Widths} {pos : Pos} (h : posFits w pos = true) :
    ofBits (toBits w.posW pos) = pos :=
  ofBits_toBits (of_decide_eq_true h)

theorem ofBits_toBits_of_rateFits {w : Widths} {rate : Rate} (h : rateFits w rate = true) :
    ofBits (toBits w.rateW rate) = rate :=
  ofBits_toBits (of_decide_eq_true h)

/-! ### The words of a command and of a record -/

/-- The word of a command is read back: the opcode by the Command Table, the position as what is left (R82). -/
theorem decode_cmd8Code (c : Command) {w : Widths} {pos : Pos} (h : posFits w pos = true) :
    decode (cmd8Code w c.opcode pos) = .ok (c.toInstr pos) := by
  have hlen : ¬ (byteBits c.opcode ++ toBits w.posW pos).length < 8 := by simp
  have htake : (byteBits c.opcode ++ toBits w.posW pos).take 8 = byteBits c.opcode :=
    List.take_left' (length_byteBits c.opcode)
  have hdrop : (byteBits c.opcode ++ toBits w.posW pos).drop 8 = toBits w.posW pos :=
    List.drop_left' (length_byteBits c.opcode)
  simp only [decode, cmd8Code, decodeCmd8, if_neg hlen, htake, hdrop, ofNat_ofBits_byteBits, cmdRom_opcode,
    ofBits_toBits_of_posFits h]

/-- The fields of a record are read back: the byte's eight bits and two positions of one width tell that width (R74). -/
theorem recordFields_encoded {w : Widths} {start stop : Pos} (hstart : posFits w start = true)
    (hstop : posFits w stop = true) (value : Byte) :
    recordFields (toBits w.posW start ++ (toBits w.posW stop ++ byteBits value)) = .ok (start, stop, value) := by
  have hlen : (toBits w.posW start ++ (toBits w.posW stop ++ byteBits value)).length = w.posW + w.posW + 8 := by
    simp [Nat.add_assoc]
  have hfields : ¬ (w.posW + w.posW + 8 < 8 ∨ (w.posW + w.posW + 8) % 2 ≠ 0) := by omega
  have hwidth : (w.posW + w.posW + 8 - 8) / 2 = w.posW := by omega
  have htake (n : Nat) (rest : BitString) : (toBits w.posW n ++ rest).take w.posW = toBits w.posW n :=
    List.take_left' (length_toBits _ _)
  have hdrop (n : Nat) (rest : BitString) : (toBits w.posW n ++ rest).drop w.posW = rest :=
    List.drop_left' (length_toBits _ _)
  simp only [recordFields, hlen, if_neg hfields, hwidth, ← List.drop_drop, htake, hdrop,
    ofBits_toBits_of_posFits hstart, ofBits_toBits_of_posFits hstop, ofNat_ofBits_byteBits]

/-! ### The selectors of the rows -/

/-- Two rows of one format, the micro-operations apart, differ in a bit that both masks keep. -/
theorem opRows_pairwise_disjoint :
    opRows.Pairwise fun r r' => r.format = r'.format → r.format ≠ .uop →
      r.value &&& r'.mask ≠ r'.value &&& r.mask := by
  decide

/-- A selector that two rows match has the bits of each under the other's mask. -/
theorem value_land_mask_comm {n : Nat} {r r' : OpRow} (h : n &&& r.mask = r.value) (h' : n &&& r'.mask = r'.value) :
    r.value &&& r'.mask = r'.value &&& r.mask := by
  rw [← h, ← h', Nat.and_right_comm]

/-- Of pairwise related members, no two of which meet a predicate together, at most one meets it. -/
theorem length_filter_le_one {α : Type} {R : α → α → Prop} {p : α → Bool} {l : List α} (hpair : l.Pairwise R)
    (hone : ∀ a b, p a = true → p b = true → ¬ R a b) : (l.filter p).length ≤ 1 := by
  have hrelated := hpair.filter p
  have hmeets : ∀ a ∈ l.filter p, p a = true := fun a ha => (List.mem_filter.mp ha).2
  match l.filter p, hrelated, hmeets with
  | [], _, _ => exact Nat.zero_le 1
  | [_], _, _ => exact le_refl 1
  | a :: b :: rest, hrelated, hmeets =>
    exact absurd (List.rel_of_pairwise_cons hrelated List.mem_cons_self)
      (hone a b (hmeets a (by simp)) (hmeets b (by simp)))

/-- Of the rows of a format, the micro-operations apart, at most one matches a selector. -/
theorem length_matchingRows_le_one {f : Format} (hf : f ≠ .uop) (n : Nat) :
    (opRows.filter fun r => r.format = f ∧ Nat.land n r.mask = r.value).length ≤ 1 := by
  refine length_filter_le_one opRows_pairwise_disjoint fun r r' hr hr' hdisjoint => ?_
  obtain ⟨hformat, hmatch⟩ := of_decide_eq_true hr
  obtain ⟨hformat', hmatch'⟩ := of_decide_eq_true hr'
  exact hdisjoint (hformat.trans hformat'.symm) (hformat ▸ hf) (value_land_mask_comm hmatch hmatch')

/-! ### The statements -/

/-- Settles O52: in each format the selector picks the row, and the fields after it are read back. -/
theorem decodeReadsBackEveryEncoding : Obligations.DecodeReadsBackEveryEncoding := by
  unfold Obligations.DecodeReadsBackEveryEncoding
  intro w i hfits
  cases i with
  | setOffsetL pos => exact decode_cmd8Code .setOffsetL hfits
  | setOffsetH pos => exact decode_cmd8Code .setOffsetH hfits
  | setData pos => exact decode_cmd8Code .setData hfits
  | getOffset pos => exact decode_cmd8Code .getOffset hfits
  | readFlash pos => exact decode_cmd8Code .readFlash hfits
  | ping pos => exact decode_cmd8Code .ping hfits
  | readCustom pos => exact decode_cmd8Code .readCustom hfits
  | setXpage pos => exact decode_cmd8Code .setXpage hfits
  | writeFlash pos => exact decode_cmd8Code .writeFlash hfits
  | writeCustom pos => exact decode_cmd8Code .writeCustom hfits
  | sessionStart | endOfStream | reservedOp5 | shiftDin | shiftDout | recWarning => rfl
  | reservedOp6_7 low => cases low <;> rfl
  | samplerate rate => exact congrArg (fun r => Except.ok (Instr.samplerate r)) (ofBits_toBits_of_rateFits hfits)
  | sample clk din dout msel pos =>
    exact congrArg (fun p => Except.ok (Instr.sample clk din dout msel p)) (ofBits_toBits_of_posFits hfits)
  | edge din dout pos => exact congrArg (fun p => Except.ok (Instr.edge din dout p)) (ofBits_toBits_of_posFits hfits)
  | frameStart pos => exact congrArg (fun p => Except.ok (Instr.frameStart p)) (ofBits_toBits_of_posFits hfits)
  | sync pos => exact congrArg (fun p => Except.ok (Instr.sync p)) (ofBits_toBits_of_posFits hfits)
  | recDataIn start stop value =>
    obtain ⟨hstart, hstop⟩ := Bool.and_eq_true_iff.mp hfits
    exact congrArg (Except.map _) (recordFields_encoded hstart hstop value)
  | recCommand start stop value =>
    obtain ⟨hstart, hstop⟩ := Bool.and_eq_true_iff.mp hfits
    exact congrArg (Except.map _) (recordFields_encoded hstart hstop value)
  | recDataOut start stop value =>
    obtain ⟨hstart, hstop⟩ := Bool.and_eq_true_iff.mp hfits
    exact congrArg (Except.map _) (recordFields_encoded hstart hstop value)
  | recSync stop =>
    have hspan : syncRecord (stop, stop, 0) = .ok (.recSync stop) := if_pos ⟨rfl, rfl⟩
    exact (congrArg (fun f => Except.bind f syncRecord) (recordFields_encoded hfits hfits 0)).trans hspan

/-- Settles O53: the decoder evaluated on each word. -/
theorem specWordsDecode : Obligations.SpecWordsDecode := by
  unfold Obligations.SpecWordsDecode
  exact ⟨rfl, rfl, rfl, rfl, rfl, rfl, rfl, rfl⟩

/-- Settles O54: the rows of a format differ under their masks; the micro-operations at each of the 16 slot codes. -/
theorem rowsSelectOneOperation : Obligations.RowsSelectOneOperation := by
  unfold Obligations.RowsSelectOneOperation
  have hformat : ∀ f ∈ [Format.cmd8, Format.txn, Format.record], f ≠ .uop := by decide
  refine ⟨fun f hf n _ => length_matchingRows_le_one (hformat f hf) n, ?slots⟩
  case slots => decide

end Sys2Proof.Proofs
end

section
/-! SUPPORT. The step and the invariant of the reachable states (R43, R174, R178): a step runs transactions only, and
every transaction keeps the invariant. -/

namespace Sys2Proof.Proofs

open Sys2Proof.Machine Sys2Proof.Statements

/-! ### What a step runs -/

/-- The input port yields transactions only (R70). -/
theorem isTransaction_of_decode {word : BitString} {i : Instr} (h : decode ⟨.txn, word⟩ = .ok i) :
    isTransaction i = true := by
  change decodeTxn word = .ok i at h
  unfold decodeTxn at h
  split at h
  case h_1 | h_3 | h_4 | h_5 =>
    split at h
    · injection h with h; subst h; rfl
    · exact absurd h (by simp)
  case h_8 => exact absurd h (by simp)
  all_goals injection h with h; subst h; rfl

theorem step_of_input_nil {s : State} (h : s.input = []) : step s = .next s := by
  simp [step, State.takeInput, h]

theorem step_of_decode_ok {s : State} {word : BitString} {rest : List BitString} {i : Instr}
    (h : s.input = word :: rest) (hd : decode ⟨.txn, word⟩ = .ok i) : step s = exec i { s with input := rest } := by
  simp [step, State.takeInput, h, hd]

theorem step_of_decode_error {s : State} {word : BitString} {rest : List BitString} {why : DecodeError}
    (h : s.input = word :: rest) (hd : decode ⟨.txn, word⟩ = .error why) :
    step s = .refused (.malformedTransaction why) := by
  simp [step, State.takeInput, h, hd]

/-- A step with a next state waits, or executes a transaction after taking its word (R174, R178). -/
theorem step_next_cases {s t : State} (h : step s = .next t) :
    (s.input = [] ∧ t = s) ∨
    ∃ word rest i, s.input = word :: rest ∧ isTransaction i = true ∧ exec i { s with input := rest } = .next t := by
  obtain ⟨hnil, hstep⟩ | ⟨word, rest, i, hcons, hd, hstep⟩ | ⟨word, rest, why, -, -, hstep⟩ := step_cases s
  · exact .inl ⟨hnil, Host.Outcome.next.inj (h.symm.trans hstep)⟩
  · exact .inr ⟨word, rest, i, hcons, isTransaction_of_decode hd, hstep.symm.trans h⟩
  · exact absurd (h.symm.trans hstep) (by simp)

/-- Any word whose selector is 5, 6 or 7 is a reserved transaction (R85). -/
theorem decode_reservedOp {op : Nat} (h5 : 5 ≤ op) (h8 : op < 8) (fields : BitString) :
    ∃ i, decode ⟨.txn, toBits 3 op ++ fields⟩ = .ok i ∧ ∀ s, exec i s = .next s := by
  obtain rfl | rfl | rfl : op = 5 ∨ op = 6 ∨ op = 7 := by omega
  · exact ⟨.reservedOp5, rfl, fun _ => rfl⟩
  · exact ⟨.reservedOp6_7 false, rfl, fun _ => rfl⟩
  · exact ⟨.reservedOp6_7 true, rfl, fun _ => rfl⟩

/-! ### The invariant -/

section Invariant

variable {s : State}

theorem reachableInv_of_run (hrun : s.phase = .run) (h : RunInv s) : ReachableInv s :=
  ⟨fun _ => h, fun hfault => absurd (hrun.symm.trans hfault) (by decide),
    fun hoff => absurd (hrun.symm.trans hoff) (by decide)⟩

theorem faultCause_eq_zero_of_run (h : ReachableInv s) (hrun : s.phase = .run) : s.faultCause = 0 := by
  obtain ⟨-, -, -, -, hcause⟩ := h.1 hrun
  exact hcause

/-- At a frame boundary with both accumulators clear, only the cause is left to ask for (R43). -/
theorem runInv_of_boundary (h0 : s.bitSlot = 0) (hdin : s.dinAcc = 0) (hdout : s.doutAcc = 0)
    (hcause : s.faultCause = 0) : RunInv s := by
  refine ⟨by simp [h0, hdin], by simp [h0, hdout], fun _ => hdout, fun hpos => ?_, hcause⟩
  exact absurd hpos (by simp [h0])

/-- The two halves of SHIFT fill one more bit of each accumulator (R123, R124). -/
theorem runInv_shift (hrun : s.phase = .run) (h8 : s.bitSlot < 8) (h : RunInv s) (hstart : s.startPos ≠ none)
    (hlast : s.lastPos ≠ none) (din dout : Level) : RunInv (shiftDataOut dout (shiftDataIn din s)) := by
  obtain ⟨hdin, hdout, hgate, -, hcause⟩ := h
  have hslot : (s.bitSlot + 1).val = s.bitSlot.val + 1 := slot_succ_val ⟨hrun, h8⟩
  have hpush := pushMsbFirst_toNat_of_lt h8 hdin din
  have hor := orAtSlot_toNat h8 hdout (gateDout dout s.hasDout)
  have hlevel := Bool.toNat_le din
  have hweight := Nat.mul_le_mul_right (2 ^ s.bitSlot.val) (Bool.toNat_le (gateDout dout s.hasDout))
  refine ⟨?dinAcc, ?doutAcc, fun hunwired => ?gated, fun _ => ⟨hstart, hlast⟩, hcause⟩
  case dinAcc =>
    simp only [shiftDataOut_dinAcc, shiftDataIn_dinAcc, shiftDataOut_bitSlot, shiftDataIn_bitSlot, hslot, hpush,
      pow_succ]
    omega
  case doutAcc =>
    simp only [shiftDataOut_doutAcc, shiftDataIn_doutAcc, shiftDataOut_bitSlot, shiftDataIn_bitSlot,
      shiftDataIn_hasDout, hslot, hor, pow_succ]
    omega
  case gated =>
    have hunwired : s.hasDout = false := hunwired
    simp [hunwired, hgate hunwired]

theorem edgeStep_keeps_reachableInv (h : ReachableInv s) (din dout : Level) (pos : Pos) :
    ReachableInv (edgeStep din dout pos s) := by
  obtain ⟨-, he⟩ | ⟨hrun, h0, he⟩ | ⟨hrun, h0, h8, he⟩ | ⟨hrun, -, he⟩ := edgeStep_cases din dout pos s <;> rw [he]
  · exact h
  · have hcause := faultCause_eq_zero_of_run h hrun
    have hopened : RunInv (startFrame pos (setLastPos pos s)) := runInv_of_boundary h0 rfl rfl hcause
    refine reachableInv_of_run hrun
      (runInv_shift (s := startFrame pos (setLastPos pos s)) hrun ?_ hopened ?_ ?_ din dout)
    · simp [h0]
    · simp
    · simp
  · obtain ⟨hdin, hdout, hgate, hpos, hcause⟩ := h.1 hrun
    obtain ⟨hstart, -⟩ := hpos (Nat.pos_of_ne_zero fun hval => h0 (Fin.ext hval))
    have hmoved : RunInv (setLastPos pos s) := ⟨hdin, hdout, hgate, fun _ => ⟨hstart, by simp⟩, hcause⟩
    exact reachableInv_of_run hrun (runInv_shift (s := setLastPos pos s) hrun h8 hmoved hstart (by simp) din dout)
  · have hkeeps := syncFrame_keepsSession pos (setLastPos pos s)
    have hcause := faultCause_eq_zero_of_run h hrun
    exact reachableInv_of_run (hkeeps.phase.trans hrun)
      (runInv_of_boundary rfl rfl rfl (hkeeps.faultCause.trans hcause))

/-- Every transaction keeps the invariant; the parts of an edge by themselves need not (log entry 6). -/
theorem exec_keeps_reachableInv {i : Instr} (htxn : isTransaction i = true) (h : ReachableInv s) :
    ∃ t, exec i s = .next t ∧ ReachableInv t := by
  cases i with
  | sessionStart cfg =>
    obtain ⟨hcause, he⟩ | ⟨-, he⟩ := execSessionStart_cases cfg s
    · exact ⟨_, he, by simp, fun _ => hcause, by simp⟩
    · exact ⟨_, he, reachableInv_of_run rfl (runInv_of_boundary rfl rfl rfl rfl)⟩
  | samplerate rate => exact ⟨_, rfl, h⟩
  | sample clk din dout msel pos =>
    obtain ⟨-, he⟩ | ⟨-, -, he⟩ | ⟨-, -, he⟩ := execSample_cases clk din dout pos s
    · exact ⟨_, he, h⟩
    · exact ⟨_, he, edgeStep_keeps_reachableInv (s := setPrevClk clk s) h din dout pos⟩
    · exact ⟨_, he, h⟩
  | edge din dout pos => exact ⟨_, rfl, edgeStep_keeps_reachableInv h din dout pos⟩
  | endOfStream =>
    refine ⟨_, rfl, ?_⟩
    split
    next hrun =>
      have hcause := faultCause_eq_zero_of_run h hrun
      exact ⟨by simp, by simp, fun _ => hcause⟩
    next => exact h
  | reservedOp5 | reservedOp6_7 => exact ⟨s, rfl, h⟩
  | setOffsetL | setOffsetH | setData | getOffset | readFlash | ping | readCustom | setXpage | writeFlash
  | writeCustom | frameStart | shiftDin | shiftDout | sync | recDataIn | recCommand | recDataOut | recSync
  | recWarning => exact absurd htxn Bool.false_ne_true

end Invariant

/-! ### The statements -/

/-- Settles O47: a step waits or executes a transaction, and each keeps the invariant. -/
theorem stepKeepsTheInvariant : Obligations.StepKeepsTheInvariant := by
  unfold Obligations.StepKeepsTheInvariant
  intro s t hinv hstep
  obtain ⟨-, rfl⟩ | ⟨word, rest, i, -, htxn, hexec⟩ := step_next_cases hstep
  · exact hinv
  · obtain ⟨u, hu, hkept⟩ := exec_keeps_reachableInv (s := { s with input := rest }) htxn hinv
    exact Host.Outcome.next.inj (hu.symm.trans hexec) ▸ hkept

/-- Settles O46: power-on is in phase OFF with the cause clear. -/
theorem powerOnMeetsTheInvariant : Obligations.PowerOnMeetsTheInvariant := by
  unfold Obligations.PowerOnMeetsTheInvariant
  have hoff : State.reset.phase = .off := rfl
  exact ⟨by simp [hoff], by simp [hoff], fun _ => rfl⟩

/-- Settles O45: every register of the power-on state, by definition. -/
theorem powerOnState : Obligations.PowerOnState := by
  unfold Obligations.PowerOnState
  exact ⟨rfl, rfl, rfl, rfl, rfl, rfl, rfl, rfl, rfl, rfl, rfl, rfl, rfl, rfl, rfl⟩

/-- Settles O48: the three things a step can find at the head of its input. -/
theorem stepRunsTheDecodedTransaction : Obligations.StepRunsTheDecodedTransaction := by
  unfold Obligations.StepRunsTheDecodedTransaction
  exact ⟨fun _ _ _ _ => step_of_decode_ok, fun _ => step_of_input_nil, fun _ _ _ _ => step_of_decode_error⟩

/-- Settles O38: the words decode to reserved transactions, which a step takes and executes without effect. -/
theorem reservedOpsAreIgnored : Obligations.ReservedOpsAreIgnored := by
  unfold Obligations.ReservedOpsAreIgnored
  refine ⟨fun s low => ⟨rfl, rfl⟩, fun s op fields rest h5 h8 hinput => ?_⟩
  obtain ⟨i, hd, hexec⟩ := decode_reservedOp h5 h8 fields
  rw [step_of_decode_ok hinput hd, hexec]

end Sys2Proof.Proofs
end

section
/-! SUPPORT. The Command Table as a table; commands and micro-operations that are not selected (R100, R111, R134). -/

namespace Sys2Proof.Proofs

open Sys2Proof.Machine Sys2Proof.Statements

/-! ### The Command Table -/

/-- A command has one row in the table, that of its opcode. -/
theorem mem_commandTable (c : Command) : (c.opcode, c) ∈ commandTable := by
  cases c <;> decide

/-- Every opcode but 0xA5 has bit 7 clear and bit 6 set. -/
theorem opcode_highBits {b : Byte} (h : b ∈ opcodes) (hb : b ≠ 0xA5) : b.getLsbD 7 = false ∧ b.getLsbD 6 = true := by
  revert b; decide

/-- The opcodes as numbers, in rising order. -/
theorem filter_mem_opcodes :
    ((List.range 256).filter fun n => BitVec.ofNat 8 n ∈ opcodes) =
      [0x40, 0x41, 0x42, 0x43, 0x44, 0x49, 0x4A, 0x4C, 0x6E, 0xA5] := by
  decide

/-- Settles O5: the table has one row for each opcode, each index and each name. -/
theorem commandTableHasTenDistinctEntries : Obligations.CommandTableHasTenDistinctEntries := by
  unfold Obligations.CommandTableHasTenDistinctEntries
  have hindex : ∀ r ∈ commandTable, ∀ r' ∈ commandTable, r.2.index = r'.2.index → r.1 = r'.1 := by decide
  have hname : ∀ r ∈ commandTable, ∀ r' ∈ commandTable, r.2.name = r'.2.name → r.1 = r'.1 := by decide
  refine ⟨?count, fun b b' c c' h h' => ?distinct⟩
  case count =>
    simp only [cmdRom_ne_none_iff]
    rw [filter_mem_opcodes]
    rfl
  case distinct =>
    obtain rfl := (cmdRom_eq_some_iff b c).mp h
    obtain rfl := (cmdRom_eq_some_iff b' c').mp h'
    exact ⟨hindex _ (mem_commandTable c) _ (mem_commandTable c'), hname _ (mem_commandTable c) _ (mem_commandTable c'),
      opcode_highBits (opcode_mem_opcodes c)⟩

/-! ### What is not selected -/

/-- A meaning whose condition fails answers the state it was given (R134). -/
theorem next_of_unselected {c : Prop} {_ : Decidable c} {s t : State} (hnot : ¬ c) :
    (Host.Outcome.next (if c then t else s) : Host.Outcome State Fault Refusal) = .next s :=
  congrArg Host.Outcome.next (if_neg hnot)

/-- Settles O6: the condition of a classification is a due sync edge with the command's opcode as the data-in byte. -/
theorem unselectedCommandChangesNothing : Obligations.UnselectedCommandChangesNothing := by
  unfold Obligations.UnselectedCommandChangesNothing
  intro c pos s hnot
  rw [exec_toInstr]
  obtain ⟨hrun, h8, hbyte, -⟩ | ⟨-, hsame⟩ := classifyAs_cases c pos s
  · exact absurd ⟨⟨hrun, h8⟩, (cmdRom_eq_some_iff s.dinAcc c).mpr hbyte⟩ hnot
  · rw [hsame]

/-- Settles O55: the condition of each micro-operation is the one under which its slot selects it. -/
theorem unselectedMicroOperationChangesNothing : Obligations.UnselectedMicroOperationChangesNothing := by
  unfold Obligations.UnselectedMicroOperationChangesNothing
  exact ⟨fun _ _ => next_of_unselected, fun _ _ => next_of_unselected, fun _ _ => next_of_unselected,
    fun _ _ => next_of_unselected⟩

end Sys2Proof.Proofs
end

section
/-! SUPPORT. An edge as its micro-operations, FRAME with its whole next state, and the frames that any number of edges
closes (R95, R134, R148). -/

namespace Sys2Proof.Proofs

open Sys2Proof.Machine Sys2Proof.Statements

/-! ### The micro-operations of an edge -/

/-- The two halves of SHIFT one after the other, at a data slot (R123, R124). -/
theorem execAll_shift {s : State} (h : DataDue s) (din dout : Level) :
    execAll [.shiftDin din, .shiftDout dout] s = .next (shiftDataOut dout (shiftDataIn din s)) := by
  have h' : DataDue (shiftDataIn din s) := h
  rw [execAll_cons (exec_shiftDin h din), execAll_cons (exec_shiftDout h' dout), execAll_nil]

/-- Settles O12: each case of the edge is a composition of the functions that the selected operations run. -/
theorem edgeRunsTheSelectedMicroOperations : Obligations.EdgeRunsTheSelectedMicroOperations := by
  unfold Obligations.EdgeRunsTheSelectedMicroOperations
  intro s din dout pos hrun
  refine ⟨fun h0 => ?first, fun h0 h8 => ?later, fun h8 => ?syncEdge⟩
  case first =>
    have h0 : s.bitSlot = 0 := Fin.ext h0
    have hdue : DataDue (startFrame pos (setLastPos pos s)) := ⟨hrun, by simp [h0]⟩
    have hstart := exec_frameStart (s := setLastPos pos s) hrun h0 pos
    exact (congrArg Host.Outcome.next (edgeStep_first hrun h0 din dout pos)).trans
      ((execAll_cons hstart _).trans (execAll_shift hdue din dout)).symm
  case later =>
    have hdue : DataDue (setLastPos pos s) := ⟨hrun, h8⟩
    exact (congrArg Host.Outcome.next (edgeStep_data hrun (Fin.ne_of_val_ne h0.ne') h8 din dout pos)).trans
      (execAll_shift hdue din dout).symm
  case syncEdge =>
    have hdue : SyncDue s := ⟨hrun, Fin.ext h8⟩
    have hdue' : SyncDue (setLastPos pos s) := hdue
    exact (exec_edge_of_syncDue hdue din dout pos).trans (execAll_cons (exec_sync hdue' pos) []).symm

/-! ### FRAME -/

/-- FRAME from a boundary, with its whole next state: the burst of the two bytes it names (R95). -/
theorem execAll_frame {s : State} (hrun : s.phase = .run) (h0 : s.bitSlot = 0) (din dout : Byte) (p0 step : Pos) :
    execAll (frame din dout p0 step) s =
      .next { s with
        bitSlot := 0, dinAcc := 0, doutAcc := 0, startPos := some p0, lastPos := some (p0 + 8 * step),
        output := s.output ++ burst p0 (p0 + 8 * step) din (if s.hasDout then dout else 0) s.hasDout } := by
  obtain ⟨dinByte, doutByte, -, -, -, hexec⟩ :=
    nineEdgesAssembleBothBytes s (fun j => din.getLsbD (7 - j.val)) (fun j => dout.getLsbD j.val)
      (fun j => p0 + j.val * step) false false hrun h0
  obtain ⟨t, hframe, hout⟩ := execAll_frame_output hrun h0 din dout p0 step
  obtain rfl := Host.Outcome.next.inj (hframe.symm.trans hexec)
  rw [hframe, ← hout]
  simp

/-- Settles O18: the next state of the nine edges, with the burst that FRAME leaves in the output. -/
theorem frameDeliversItsBytes : Obligations.FrameDeliversItsBytes := by
  unfold Obligations.FrameDeliversItsBytes
  exact fun s din dout p0 step hrun h0 => execAll_frame hrun h0 din dout p0 step

/-- Settles O4: the first frame ends at a boundary, with the phase and the flag of the second as they were. -/
theorem framesAreClassifiedAlone : Obligations.FramesAreClassifiedAlone := by
  unfold Obligations.FramesAreClassifiedAlone
  intro s in1 out1 in2 out2 p1 step1 p2 step2 hrun h0
  have hfirst := execAll_frame hrun h0 in1 out1 p1 step1
  obtain ⟨t, hsecond, hout⟩ := execAll_frame_output (s := { s with
    bitSlot := 0, dinAcc := 0, doutAcc := 0, startPos := some p1, lastPos := some (p1 + 8 * step1),
    output := s.output ++ burst p1 (p1 + 8 * step1) in1 (if s.hasDout then out1 else 0) s.hasDout })
    hrun rfl in2 out2 p2 step2
  exact ⟨t, (execAll_append hfirst _).trans hsecond, hout.trans (List.append_assoc ..)⟩

/-! ### Any number of edges -/

/-- The records of `n` closed frames, with `has_dout` at `gate`: a burst for each. -/
inductive Bursts (gate : Level) : Nat → List Record → Prop where
  | none : Bursts gate 0 []
  | cons (start stop : Pos) (din dout : Byte) {n : Nat} {rest : List Record} (h : Bursts gate n rest) :
      Bursts gate (n + 1) (burst start stop din dout gate ++ rest)

/-- Each closed frame has one SYNC, one DATA_IN and, with the wire configured, one DATA_OUT record (R140 to R144). -/
theorem Bursts.counts {gate : Level} {n : Nat} {new : List Record} (h : Bursts gate n new) :
    (new.filter fun r => r.cat = .sync).length = n ∧ (new.filter fun r => r.cat = .dataIn).length = n ∧
      (new.filter fun r => r.cat = .dataOut).length = if gate then n else 0 := by
  induction h with
  | none => simp
  | cons start stop din dout _ ih =>
    obtain ⟨hsync, hdataIn, hdataOut⟩ := ih
    simp only [burst_eq, List.filter_append, List.length_append, hsync, hdataIn, hdataOut]
    by_cases hdin : din ∈ opcodes <;> cases gate <;> simp [hdin, Nat.add_comm]

/-- Edges from any slot: the slot counts them modulo 9, and every ninth of them closes a frame (R134, R148). -/
theorem execAll_edges_bursts (edges : List (Level × Level × Pos)) {s : State} (hrun : s.phase = .run) :
    ∃ t new, execAll (edges.map fun e => .edge e.1 e.2.1 e.2.2) s = .next t ∧ t.output = s.output ++ new ∧
      t.bitSlot.val = (s.bitSlot.val + edges.length) % 9 ∧
      Bursts s.hasDout ((s.bitSlot.val + edges.length) / 9) new := by
  have hslot := s.bitSlot.isLt
  induction edges generalizing s with
  | nil =>
    refine ⟨s, [], rfl, (List.append_nil _).symm, (Nat.mod_eq_of_lt hslot).symm, ?_⟩
    rw [List.length_nil, Nat.add_zero, Nat.div_eq_of_lt hslot]
    exact .none
  | cons e edges ih =>
    have hkeeps := edgeStep_keepsSession e.1 e.2.1 e.2.2 s
    obtain ⟨t, new, hexec, hout, hcount, hbursts⟩ := ih (s := edgeStep e.1 e.2.1 e.2.2 s) (hkeeps.phase.trans hrun)
      (Fin.isLt _)
    have hall : execAll ((e :: edges).map fun e => .edge e.1 e.2.1 e.2.2) s = .next t :=
      (execAll_cons (i := .edge e.1 e.2.1 e.2.2) rfl _).trans hexec
    rw [hkeeps.hasDout] at hbursts
    rw [List.length_cons]
    by_cases h8 : s.bitSlot.val < 8
    · obtain ⟨u, hedge, -, huslot, huout⟩ := exec_edge_of_dataDue ⟨hrun, h8⟩ e.1 e.2.1 e.2.2
      obtain rfl : edgeStep e.1 e.2.1 e.2.2 s = u := Host.Outcome.next.inj hedge
      rw [huslot, Nat.add_assoc, Nat.add_comm 1] at hcount hbursts
      exact ⟨t, new, hall, hout.trans (congrArg (· ++ new) huout), hcount, hbursts⟩
    · have hdue : SyncDue s := ⟨hrun, slot_eq_eight h8⟩
      have hedge : edgeStep e.1 e.2.1 e.2.2 s = _ :=
        Host.Outcome.next.inj (exec_edge_of_syncDue hdue e.1 e.2.1 e.2.2)
      have hval : s.bitSlot.val = 8 := congrArg Fin.val hdue.2
      simp only [hedge, Fin.val_zero, Nat.zero_add] at hcount hbursts hout
      refine ⟨t, _, hall, hout.trans (List.append_assoc ..), by omega, ?_⟩
      have hclosed : (s.bitSlot.val + (edges.length + 1)) / 9 = edges.length / 9 + 1 := by omega
      rw [hclosed]
      exact .cons _ _ _ _ hbursts

/-- Settles O19: the frames that the edges close, and the records of each category in them. -/
theorem edgeCountFixesTheFraming : Obligations.EdgeCountFixesTheFraming := by
  unfold Obligations.EdgeCountFixesTheFraming
  intro edges s hrun
  obtain ⟨t, new, hexec, hout, hslot, hbursts⟩ := execAll_edges_bursts edges hrun
  exact ⟨t, new, hexec, hout, hslot, hbursts.counts⟩

end Sys2Proof.Proofs
end

section
/-! SUPPORT. What the emitter never does (R84, R143, R147), its records one at a time (R140 to R144), and the spelling
of a byte (R88). -/

namespace Sys2Proof.Proofs

open Sys2Proof.Machine Sys2Proof.Statements

/-! ### The records of a burst and of any emission -/

/-- The records before the SYNC record of a burst are of other categories and end at the sync edge (R140 to R144). -/
theorem burst_eq_append_sync (start stop : Pos) (din dout : Byte) (gate : Level) :
    ∃ front, burst start stop din dout gate = front ++ [⟨.sync, stop, stop, 0⟩] ∧
      ∀ r ∈ front, r.cat ≠ .sync ∧ r.stop = stop := by
  refine ⟨_, burst_eq start stop din dout gate, ?_⟩
  by_cases hdin : din ∈ opcodes <;> cases gate <;> simp [hdin]

/-- No emission holds a record of the reserved category (R84). -/
theorem Emission.cat_ne_warning {gate : Level} {new : List Record} (h : Emission gate new) :
    ∀ r ∈ new, r.cat ≠ .warning := by
  cases h with
  | nothing => exact fun _ hr => absurd hr List.not_mem_nil
  | frame start stop din dout =>
    by_cases hdin : din ∈ opcodes <;> cases gate <;> simp [burst_eq, hdin]
  | dataIn | command | dataOut | sync => simp

/-! ### The records one at a time -/

/-- A COMMAND record for an opcode, by itself (R142). -/
theorem exec_recCommand_of_mem {value : Byte} (h : value ∈ opcodes) (start stop : Pos) (s : State) :
    exec (.recCommand start stop value) s = .next (s.emit .command start stop value) :=
  congrArg Host.Outcome.next (if_pos ((cmdRom_ne_none_iff value).mpr h))

theorem exec_recCommand_of_notMem {value : Byte} (h : value ∉ opcodes) (start stop : Pos) (s : State) :
    exec (.recCommand start stop value) s = .next s :=
  next_of_unselected (mt (cmdRom_ne_none_iff value).mp h)

/-- A DATA_OUT record with the wire configured, by itself (R143). -/
theorem exec_recDataOut_of_wired {s : State} (h : s.hasDout = true) (start stop : Pos) (value : Byte) :
    exec (.recDataOut start stop value) s = .next (s.emit .dataOut start stop value) :=
  congrArg Host.Outcome.next (if_pos h)

theorem exec_recDataOut_of_unwired {s : State} (h : s.hasDout = false) (start stop : Pos) (value : Byte) :
    exec (.recDataOut start stop value) s = .next s :=
  next_of_unselected (ne_true_of_eq_false h)

/-! ### What a transaction does to the slot and the output -/

/-- Everything a transaction can do to the slot and the output: SESSION_START clears the slot, a running EDGE or a
SAMPLE at a fall is an edge, and what is left touches neither (R120, R160, R171). -/
theorem exec_transaction_cases {i : Instr} {s t : State} (htxn : isTransaction i = true) (h : exec i s = .next t) :
    (∃ cfg, i = .sessionStart cfg ∧ t.bitSlot = 0 ∧ t.output = s.output) ∨
    (∃ din dout pos, i = .edge din dout pos ∧ s.phase = .run ∧ t = edgeStep din dout pos s) ∨
    (∃ din dout msel pos, i = .sample false din dout msel pos ∧ s.phase = .run ∧ s.prevClk = some true ∧
      t = edgeStep din dout pos (setPrevClk false s)) ∨
    ((∀ cfg, i ≠ .sessionStart cfg) ∧ (s.phase = .run → ∀ din dout pos, i ≠ .edge din dout pos) ∧
      t.bitSlot = s.bitSlot ∧ t.output = s.output) := by
  have next_eq {u : State} (hu : exec i s = .next u) : t = u := Host.Outcome.next.inj (h.symm.trans hu)
  cases i with
  | sessionStart cfg =>
    obtain ⟨-, he⟩ | ⟨-, he⟩ := execSessionStart_cases cfg s
    · obtain rfl := next_eq he
      exact .inl ⟨cfg, rfl, rfl, rfl⟩
    · obtain rfl := next_eq he
      exact .inl ⟨cfg, rfl, rfl, rfl⟩
  | samplerate | reservedOp5 | reservedOp6_7 =>
    obtain rfl := next_eq rfl
    exact .inr (.inr (.inr ⟨by simp, by simp, rfl, rfl⟩))
  | sample clk din dout msel pos =>
    obtain ⟨-, he⟩ | ⟨hrun, hfall, he⟩ | ⟨-, -, he⟩ := execSample_cases clk din dout pos s
    · obtain rfl := next_eq he
      exact .inr (.inr (.inr ⟨by simp, by simp, rfl, rfl⟩))
    · obtain ⟨hclk, rfl⟩ := (clockFalls_iff s.prevClk clk).mp hfall
      exact .inr (.inr (.inl ⟨din, dout, msel, pos, rfl, hrun, hclk, next_eq he⟩))
    · obtain rfl := next_eq he
      exact .inr (.inr (.inr ⟨by simp, by simp, rfl, rfl⟩))
  | edge din dout pos =>
    by_cases hrun : s.phase = .run
    · exact .inr (.inl ⟨din, dout, pos, rfl, hrun, next_eq rfl⟩)
    · obtain rfl := next_eq (congrArg Host.Outcome.next (edgeStep_idle hrun din dout pos))
      exact .inr (.inr (.inr ⟨by simp, fun h => absurd h hrun, rfl, rfl⟩))
  | endOfStream =>
    obtain rfl := next_eq rfl
    exact .inr (.inr (.inr ⟨by simp, by simp, by split <;> rfl, by split <;> rfl⟩))
  | setOffsetL | setOffsetH | setData | getOffset | readFlash | ping | readCustom | setXpage | writeFlash
  | writeCustom | frameStart | shiftDin | shiftDout | sync | recDataIn | recCommand | recDataOut | recSync
  | recWarning => exact absurd htxn Bool.false_ne_true

/-- An edge that changes the output is a sync edge (R126). -/
theorem syncDue_of_edgeStep_emits {s : State} {din dout : Level} {pos : Pos}
    (h : (edgeStep din dout pos s).output ≠ s.output) : SyncDue s := by
  obtain ⟨-, he⟩ | ⟨-, -, he⟩ | ⟨-, -, -, he⟩ | ⟨hrun, h8, -⟩ := edgeStep_cases din dout pos s
  · exact absurd (congrArg State.output he) h
  · exact absurd (congrArg State.output he) h
  · exact absurd (congrArg State.output he) h
  · exact ⟨hrun, h8⟩

/-! ### The data-out level without its wire -/

/-- The data-out half of SHIFT gates the level to 0 (R23, R124). -/
theorem shiftDataOut_unwired {s : State} (h : s.hasDout = false) (dout dout' : Level) :
    shiftDataOut dout s = shiftDataOut dout' s := by
  simp only [shiftDataOut, h, gateDout_false]

theorem edgeStep_unwired {s : State} (h : s.hasDout = false) (din dout dout' : Level) (pos : Pos) :
    edgeStep din dout pos s = edgeStep din dout' pos s := by
  obtain ⟨hidle, he⟩ | ⟨hrun, h0, he⟩ | ⟨hrun, h0, h8, he⟩ | ⟨hrun, h8, he⟩ := edgeStep_cases din dout pos s <;> rw [he]
  · rw [edgeStep_idle hidle]
  · rw [edgeStep_first hrun h0]
    exact shiftDataOut_unwired (s := shiftDataIn din (startFrame pos (setLastPos pos s))) h dout dout'
  · rw [edgeStep_data hrun h0 h8]
    exact shiftDataOut_unwired (s := shiftDataIn din (setLastPos pos s)) h dout dout'
  · rw [edgeStep_sync hrun h8]

/-! ### The spelling of a byte -/

theorem hexDigit_mem (n : BitVec 4) : hexDigit n ∈ "0123456789ABCDEF".toList := by
  revert n; decide

/-- The place of a digit in the list of digits is its value (R88). -/
theorem idxOf_hexDigit (n : BitVec 4) : "0123456789ABCDEF".toList.idxOf (hexDigit n) = n.toNat := by
  revert n; decide

theorem specHex2_toList (b : Byte) :
    (specHex2 b).toList = [hexDigit (b.extractLsb' 4 4), hexDigit (b.extractLsb' 0 4)] :=
  String.toList_ofList

/-- A byte from its two halves. -/
theorem byte_toNat_eq_halves (b : Byte) :
    b.toNat = (b.extractLsb' 4 4).toNat * 16 + (b.extractLsb' 0 4).toNat := by
  have hlt := b.isLt
  simp only [BitVec.extractLsb'_toNat, Nat.shiftRight_eq_div_pow]
  omega

/-! ### The statements -/

/-- Settles O22: the SYNC record is what ends the burst's list. -/
theorem syncRecordClosesTheBurst : Obligations.SyncRecordClosesTheBurst := by
  unfold Obligations.SyncRecordClosesTheBurst
  refine ⟨fun _ _ => rfl, fun s din dout pos hdue => ?_, fun _ _ => rfl⟩
  obtain ⟨front, hburst, hfront⟩ := burst_eq_append_sync s.startPosValue pos s.dinAcc s.doutAcc s.hasDout
  exact ⟨_, front, exec_edge_of_syncDue hdue din dout pos, congrArg (s.output ++ ·) hburst, hfront⟩

/-- Settles O23: what an operation appends is an emission, and none holds a WARNING record. -/
theorem warningIsNeverEmitted : Obligations.WarningIsNeverEmitted := by
  unfold Obligations.WarningIsNeverEmitted
  refine ⟨fun _ => rfl, fun i s t hexec hbefore => ?_, fun _ _ => rfl⟩
  obtain ⟨u, hu, new, hout, hnew⟩ := exec_appends i s
  obtain rfl := Host.Outcome.next.inj (hexec.symm.trans hu)
  rw [hout]
  exact List.forall_mem_append.mpr ⟨hbefore, hnew.cat_ne_warning⟩

/-- Settles O24: of the things a transaction can do, only an edge at a due sync edge changes the output. -/
theorem onlySyncEdgesEmit : Obligations.OnlySyncEdgesEmit := by
  unfold Obligations.OnlySyncEdgesEmit
  intro i s t htxn hexec hemits
  obtain ⟨cfg, -, -, hout⟩ | ⟨din, dout, pos, hi, -, rfl⟩ | ⟨din, dout, msel, pos, hi, -, hclk, rfl⟩ |
    ⟨-, -, -, hout⟩ := exec_transaction_cases htxn hexec
  · exact absurd hout hemits
  · exact ⟨syncDue_of_edgeStep_emits hemits, .inl ⟨din, dout, pos, hi⟩⟩
  · have hdue : SyncDue (setPrevClk false s) := syncDue_of_edgeStep_emits hemits
    exact ⟨hdue, .inr ⟨din, dout, msel, pos, hi, hclk⟩⟩
  · exact absurd hout hemits

/-- Settles O25: the level is gated in the one place that reads it, and every emission meets the gate. -/
theorem unconfiguredDataOutLeavesNoTrace : Obligations.UnconfiguredDataOutLeavesNoTrace := by
  unfold Obligations.UnconfiguredDataOutLeavesNoTrace
  intro s hgate
  refine ⟨fun din dout dout' pos => congrArg Host.Outcome.next (edgeStep_unwired hgate din dout dout' pos),
    fun clk din dout dout' msel pos => ?sample, fun i => ?records⟩
  case sample =>
    have hedge := edgeStep_unwired (s := setPrevClk clk s) hgate din dout dout' pos
    rw [exec, exec, execSample, execSample, hedge]
  case records =>
    obtain ⟨t, hexec, new, hout, hnew⟩ := exec_appends i s
    refine ⟨t, new, hexec, hout, fun r hr hcat => ?_⟩
    exact ne_true_of_eq_false hgate ((hnew.conditions r hr).1 hcat)

/-- Settles O27: a digit's place among the sixteen is its half of the byte, so the two digits give the byte back. -/
theorem hexSpellingIsTwoDistinctDigits : Obligations.HexSpellingIsTwoDistinctDigits := by
  unfold Obligations.HexSpellingIsTwoDistinctDigits
  refine ⟨fun b => ⟨_, _, specHex2_toList b, hexDigit_mem _, hexDigit_mem _, ?value⟩, fun b b' hspell => ?injective⟩
  case value => rw [idxOf_hexDigit, idxOf_hexDigit, byte_toNat_eq_halves]
  case injective =>
    have hdigits := congrArg String.toList hspell
    rw [specHex2_toList, specHex2_toList, List.cons.injEq, List.cons.injEq] at hdigits
    obtain ⟨hhi, hlo, -⟩ := hdigits
    apply BitVec.eq_of_toNat_eq
    rw [byte_toNat_eq_halves b, byte_toNat_eq_halves b', ← idxOf_hexDigit, ← idxOf_hexDigit, hhi, hlo, idxOf_hexDigit,
      idxOf_hexDigit]

/-- Settles O58: each record operation in each case of its condition. -/
theorem recordsStandAloneUnderTheirConditions : Obligations.RecordsStandAloneUnderTheirConditions := by
  unfold Obligations.RecordsStandAloneUnderTheirConditions
  exact fun s start stop value => ⟨rfl, fun h => exec_recCommand_of_mem h start stop s,
    fun h => exec_recCommand_of_notMem h start stop s, fun h => exec_recDataOut_of_wired h start stop value,
    fun h => exec_recDataOut_of_unwired h start stop value⟩

/-- Settles O59: the four operations in order are the burst, and R140's example is its list for 0x49. -/
theorem recordOperationsInOrderMakeTheBurst : Obligations.RecordOperationsInOrderMakeTheBurst := by
  unfold Obligations.RecordOperationsInOrderMakeTheBurst
  refine ⟨fun s start stop din dout => ⟨execAll_records_eq_burst start stop din dout s, length_burst_bounds ..⟩,
    fun s hgate => ⟨_, execAll_records_eq_burst 10 90 0x49 0x80 s, ?_⟩⟩
  rw [hgate]
  rfl

end Sys2Proof.Proofs
end

section
/-! SUPPORT. The session operations with their whole next states (R160 to R178), what an operation leaves of the input
and the rate, the slot after a transaction (R28), and the spans of an edge's records (R25, R63). -/

namespace Sys2Proof.Proofs

open Sys2Proof.Machine Sys2Proof.Statements

/-! ### SESSION_START on its two paths -/

theorem exec_sessionStart_of_missing {cfg : Capabilities} (h : causeMask cfg ≠ 0) (s : State) :
    exec (.sessionStart cfg) s = .next (raiseConfigError (causeMask cfg) s) :=
  congrArg Host.Outcome.next (if_pos h)

theorem exec_sessionStart_of_wired {cfg : Capabilities} (h : causeMask cfg = 0) (s : State) :
    exec (.sessionStart cfg) s = .next (startSession cfg s) :=
  congrArg Host.Outcome.next (if_neg (not_not_intro h))

/-- Bit 0 of the cause is a missing clock, bit 1 a missing data-in (R191). -/
theorem causeMask_getLsbD (cfg : Capabilities) :
    (causeMask cfg).getLsbD 0 = !cfg.hasClk ∧ (causeMask cfg).getLsbD 1 = !cfg.hasDin := by
  obtain ⟨hasClk, hasDin, -, -⟩ := cfg
  cases hasClk <;> cases hasDin <;> simp [causeMask]

/-! ### Outside phase RUN -/

theorem exec_edge_of_idle {s : State} (h : s.phase ≠ .run) (din dout : Level) (pos : Pos) :
    exec (.edge din dout pos) s = .next s :=
  congrArg Host.Outcome.next (edgeStep_idle h din dout pos)

theorem exec_sample_of_idle {s : State} (h : s.phase ≠ .run) (clk din dout msel : Level) (pos : Pos) :
    exec (.sample clk din dout msel pos) s = .next s :=
  next_of_unselected h

theorem exec_endOfStream_of_idle {s : State} (h : s.phase ≠ .run) : exec .endOfStream s = .next s :=
  next_of_unselected h

/-! ### The input and the rate -/

/-- The state `t` has the input and the rate of `s`. -/
structure KeepsInputAndRate (s t : State) : Prop where
  input : t.input = s.input
  samplerate : t.samplerate = s.samplerate

theorem KeepsInputAndRate.refl (s : State) : KeepsInputAndRate s s := ⟨rfl, rfl⟩

/-- A part of an edge that is not selected changes nothing (R134). -/
theorem KeepsInputAndRate.ite {s t : State} {c : Prop} [Decidable c] (h : KeepsInputAndRate s t) :
    KeepsInputAndRate s (if c then t else s) := by
  split
  · exact h
  · exact .refl s

theorem syncFrame_keepsInputAndRate (pos : Pos) (s : State) : KeepsInputAndRate s (syncFrame pos s) := by
  rw [syncFrame, emitFrame_eq_burst]
  exact ⟨rfl, rfl⟩

theorem edgeStep_keepsInputAndRate (din dout : Level) (pos : Pos) (s : State) :
    KeepsInputAndRate s (edgeStep din dout pos s) := by
  obtain ⟨-, h⟩ | ⟨-, -, h⟩ | ⟨-, -, -, h⟩ | ⟨-, -, h⟩ := edgeStep_cases din dout pos s <;> rw [h]
  · exact .refl s
  · exact ⟨rfl, rfl⟩
  · exact ⟨rfl, rfl⟩
  · obtain ⟨hinput, hrate⟩ := syncFrame_keepsInputAndRate pos (setLastPos pos s)
    exact ⟨hinput, hrate⟩

theorem execSample_keepsInputAndRate (clk din dout : Level) (pos : Pos) (s : State) :
    ∃ t, execSample clk din dout pos s = .next t ∧ KeepsInputAndRate s t := by
  obtain ⟨-, h⟩ | ⟨-, -, h⟩ | ⟨-, -, h⟩ := execSample_cases clk din dout pos s
  · exact ⟨_, h, .refl s⟩
  · obtain ⟨hinput, hrate⟩ := edgeStep_keepsInputAndRate din dout pos (setPrevClk clk s)
    exact ⟨_, h, hinput, hrate⟩
  · exact ⟨_, h, rfl, rfl⟩

/-- No operation takes or issues a transaction, and none but SAMPLERATE writes the rate (R37, R59, R165). -/
theorem exec_keepsInputAndRate {i : Instr} (hrate : ∀ rate, i ≠ .samplerate rate) (s : State) :
    ∃ t, exec i s = .next t ∧ KeepsInputAndRate s t := by
  cases i with
  | samplerate rate => exact absurd rfl (hrate rate)
  | setOffsetL | setOffsetH | setData | getOffset | readFlash | ping | readCustom | setXpage | writeFlash
  | writeCustom => exact ⟨_, rfl, .ite ⟨rfl, rfl⟩⟩
  | sessionStart cfg =>
    obtain ⟨-, h⟩ | ⟨-, h⟩ := execSessionStart_cases cfg s
    · exact ⟨_, h, rfl, rfl⟩
    · exact ⟨_, h, rfl, rfl⟩
  | sample clk din dout msel pos => exact execSample_keepsInputAndRate clk din dout pos s
  | edge din dout pos => exact ⟨_, rfl, edgeStep_keepsInputAndRate din dout pos s⟩
  | reservedOp5 | reservedOp6_7 | recWarning => exact ⟨_, rfl, .refl s⟩
  | sync pos => exact ⟨_, rfl, .ite (syncFrame_keepsInputAndRate pos s)⟩
  | endOfStream | frameStart | shiftDin | shiftDout | recCommand | recDataOut => exact ⟨_, rfl, .ite ⟨rfl, rfl⟩⟩
  | recDataIn | recSync => exact ⟨_, rfl, rfl, rfl⟩

/-- Every operation leaves the input alone, SAMPLERATE too (R59). -/
theorem exec_input {i : Instr} {s t : State} (h : exec i s = .next t) : t.input = s.input := by
  by_cases hrate : ∃ rate, i = .samplerate rate
  · obtain ⟨rate, rfl⟩ := hrate
    obtain rfl := Host.Outcome.next.inj h
    rfl
  · obtain ⟨u, hu, hkeeps⟩ := exec_keepsInputAndRate (not_exists.mp hrate) s
    exact Host.Outcome.next.inj (h.symm.trans hu) ▸ hkeeps.input

/-! ### The length of an emission -/

theorem Emission.length_le_four {gate : Level} {new : List Record} (h : Emission gate new) : new.length ≤ 4 := by
  cases h with
  | nothing | dataIn | command | dataOut | sync => simp
  | frame start stop din dout =>
    obtain ⟨-, hmax⟩ := length_burst_bounds start stop din dout gate
    exact hmax

/-- A transaction emits nothing or one whole burst (R62, R147). -/
theorem exec_transaction_output {i : Instr} {s t : State} (htxn : isTransaction i = true) (h : exec i s = .next t) :
    t.output = s.output ∨ ∃ start stop din dout gate, t.output = s.output ++ burst start stop din dout gate := by
  have edge_output (u : State) (din dout : Level) (pos : Pos) (hemits : (edgeStep din dout pos u).output ≠ u.output) :
      ∃ start stop a b gate, (edgeStep din dout pos u).output = u.output ++ burst start stop a b gate := by
    have hexec := exec_edge_of_syncDue (syncDue_of_edgeStep_emits hemits) din dout pos
    exact ⟨_, _, _, _, _, congrArg State.output (Host.Outcome.next.inj hexec)⟩
  refine or_iff_not_imp_left.mpr fun hemits => ?_
  obtain ⟨cfg, -, -, hout⟩ | ⟨din, dout, pos, -, -, rfl⟩ | ⟨din, dout, msel, pos, -, -, -, rfl⟩ | ⟨-, -, -, hout⟩ :=
    exec_transaction_cases htxn h
  · exact absurd hout hemits
  · exact edge_output s din dout pos hemits
  · exact edge_output (setPrevClk false s) din dout pos hemits
  · exact absurd hout hemits

/-! ### The slot after an edge -/

/-- A running edge goes up by one slot, from 8 back to 0 (R28). -/
theorem edgeStep_bitSlot {s : State} (hrun : s.phase = .run) (din dout : Level) (pos : Pos) :
    (edgeStep din dout pos s).bitSlot.val = if s.bitSlot.val < 8 then s.bitSlot.val + 1 else 0 := by
  by_cases h8 : s.bitSlot.val < 8
  · obtain ⟨t, hexec, -, hslot, -⟩ := exec_edge_of_dataDue ⟨hrun, h8⟩ din dout pos
    obtain rfl : edgeStep din dout pos s = t := Host.Outcome.next.inj hexec
    rw [hslot, if_pos h8]
  · have hexec := exec_edge_of_syncDue ⟨hrun, slot_eq_eight h8⟩ din dout pos
    rw [if_neg h8]
    exact congrArg (fun u : State => u.bitSlot.val) (Host.Outcome.next.inj hexec)

theorem edgeStep_bitSlot_ne {s : State} (hrun : s.phase = .run) (din dout : Level) (pos : Pos) :
    (edgeStep din dout pos s).bitSlot ≠ s.bitSlot := by
  intro hsame
  have hslot := edgeStep_bitSlot hrun din dout pos
  rw [hsame] at hslot
  split at hslot <;> omega

/-! ### The spans of an edge's records -/

/-- The duty of the source (R232): the positions held have not decreased and are not past `pos`. -/
def ForwardTo (pos : Pos) (s : State) : Prop :=
  ∀ a l, s.startPos = some a → s.lastPos = some l → a ≤ l ∧ l ≤ pos

/-- Inside a frame of a reachable state its start is held, and not past the next edge (R43). -/
theorem frameStart_le_of_forwardTo {s : State} (hinv : ReachableInv s) (hrun : s.phase = .run) (h0 : s.bitSlot ≠ 0)
    {pos : Pos} (hforward : ForwardTo pos s) : ∃ a, s.startPos = some a ∧ a ≤ pos := by
  obtain ⟨-, -, -, hheld, -⟩ := hinv.1 hrun
  obtain ⟨hstart, hlast⟩ := hheld (Nat.pos_of_ne_zero fun hval => h0 (Fin.ext hval))
  obtain ⟨a, ha⟩ := Option.ne_none_iff_exists'.mp hstart
  obtain ⟨l, hl⟩ := Option.ne_none_iff_exists'.mp hlast
  obtain ⟨hal, hlpos⟩ := hforward a l ha hl
  exact ⟨a, ha, hal.trans hlpos⟩

/-- After an edge the latest position is the edge's, and the start of the frame is not past it (R24, R39). -/
theorem edgeStep_forward {s : State} (hinv : ReachableInv s) (hrun : s.phase = .run) {pos : Pos}
    (hforward : ForwardTo pos s) (din dout : Level) (a l : Pos) (ha : (edgeStep din dout pos s).startPos = some a)
    (hl : (edgeStep din dout pos s).lastPos = some l) : a ≤ l ∧ l = pos := by
  obtain ⟨hlast, hstart⟩ := edgeStep_writes_positions hrun din dout pos
  obtain rfl : pos = l := Option.some.inj (hlast.symm.trans hl)
  rw [hstart] at ha
  split at ha
  next => exact ⟨(Option.some.inj ha).ge, rfl⟩
  next h0 =>
    obtain ⟨b, hb, hle⟩ := frameStart_le_of_forwardTo hinv hrun h0 hforward
    exact ⟨Option.some.inj (hb.symm.trans ha) ▸ hle, rfl⟩

/-- Every record of a burst ends at the sync edge, and begins at the frame's start or, the SYNC record, at the end. -/
theorem burst_spans (start stop : Pos) (din dout : Byte) (gate : Level) :
    ∀ r ∈ burst start stop din dout gate, (r.start = start ∨ r.start = stop) ∧ r.stop = stop := by
  by_cases hdin : din ∈ opcodes <;> cases gate <;> simp [burst_eq, hdin]

theorem burst_spans_forward {start stop : Pos} (hle : start ≤ stop) {din dout : Byte} {gate : Level} {r : Record}
    (hr : r ∈ burst start stop din dout gate) : start ≤ r.start ∧ r.start ≤ r.stop ∧ r.stop = stop := by
  obtain ⟨hbegin | hbegin, hend⟩ := burst_spans start stop din dout gate r hr <;> rw [hbegin, hend]
  · exact ⟨le_refl start, hle, rfl⟩
  · exact ⟨hle, le_refl stop, rfl⟩

/-! ### The statements -/

/-- Settles O28: the path of the configuration error, whose cause looks at the two required wires only. -/
theorem missingRequiredWireFaults : Obligations.MissingRequiredWireFaults := by
  unfold Obligations.MissingRequiredWireFaults
  refine ⟨fun cfg s hmissing => ?fault, fun s => ⟨_, rfl, rfl, rfl, rfl, rfl⟩⟩
  have hcause := (causeMask_ne_zero_iff cfg).mpr hmissing
  obtain ⟨hclkBit, hdinBit⟩ := causeMask_getLsbD cfg
  refine ⟨causeMask cfg, hclkBit, hdinBit, exec_sessionStart_of_missing hcause s, fun d m => ?_⟩
  have hcause' : causeMask { cfg with hasDout := d, hasMsel := m } ≠ 0 := hcause
  rw [exec_sessionStart_of_missing hcause, exec_sessionStart_of_missing hcause']
  rfl

/-- Settles O29: the path of the successful start. -/
theorem goodStartInitialisesTheSession : Obligations.GoodStartInitialisesTheSession := by
  unfold Obligations.GoodStartInitialisesTheSession
  intro cfg s hclk hdin
  have hcause := (causeMask_eq_zero_iff cfg).mpr ⟨hclk, hdin⟩
  exact ⟨_, exec_sessionStart_of_wired hcause s, rfl, rfl⟩

/-- Settles O30: on either path every session register is written from the capability record alone. -/
theorem startForgetsTheOldSession : Obligations.StartForgetsTheOldSession := by
  unfold Obligations.StartForgetsTheOldSession
  intro cfg s s'
  by_cases hcause : causeMask cfg = 0
  · exact ⟨_, _, exec_sessionStart_of_wired hcause s, exec_sessionStart_of_wired hcause s',
      ⟨rfl, rfl, rfl, rfl, rfl, rfl, rfl, rfl, rfl, rfl⟩, rfl, rfl, rfl⟩
  · exact ⟨_, _, exec_sessionStart_of_missing hcause s, exec_sessionStart_of_missing hcause s',
      ⟨rfl, rfl, rfl, rfl, rfl, rfl, rfl, rfl, rfl, rfl⟩, rfl, rfl, rfl⟩

/-- Settles O31: the meaning of SAMPLERATE is that write. -/
theorem samplerateOnlyStoresTheRate : Obligations.SamplerateOnlyStoresTheRate := by
  unfold Obligations.SamplerateOnlyStoresTheRate
  exact fun _ _ => rfl

/-- Settles O36: the two sides of the phase test. -/
theorem endOfStreamOnlyLeavesRun : Obligations.EndOfStreamOnlyLeavesRun := by
  unfold Obligations.EndOfStreamOnlyLeavesRun
  exact ⟨fun _ hrun => congrArg Host.Outcome.next (if_pos hrun), fun _ => exec_endOfStream_of_idle⟩

/-- Settles O37: each meaning tests the phase; the parts of an edge are then not selected (O55). -/
theorem nothingActsOutsideRun : Obligations.NothingActsOutsideRun := by
  unfold Obligations.NothingActsOutsideRun
  intro s hidle
  obtain ⟨hframeStart, hshiftDin, hshiftDout, hsync⟩ := unselectedMicroOperationChangesNothing
  exact ⟨exec_edge_of_idle hidle, exec_sample_of_idle hidle, exec_endOfStream_of_idle hidle,
    fun pos => ⟨hframeStart s pos fun h => hidle h.1, hsync s pos fun h => hidle h.1⟩,
    fun level => ⟨hshiftDin s level fun h => hidle h.1, hshiftDout s level fun h => hidle h.1⟩⟩

/-- Settles O39: SESSION_START clears the slot, an edge moves it, and nothing else touches it. -/
theorem bitSlotAdvancesOnlyOnEdges : Obligations.BitSlotAdvancesOnlyOnEdges := by
  unfold Obligations.BitSlotAdvancesOnlyOnEdges
  intro i s t htxn hexec
  obtain ⟨cfg, rfl, h0, -⟩ | ⟨din, dout, pos, rfl, hrun, rfl⟩ | ⟨din, dout, msel, pos, rfl, hrun, hclk, rfl⟩ |
    ⟨hstart, hedge, hsame, -⟩ := exec_transaction_cases htxn hexec
  · exact ⟨fun _ _ => h0, fun hstart => absurd rfl (hstart cfg), by simp⟩
  · exact ⟨by simp, fun _ _ => ⟨hrun, edgeStep_bitSlot hrun .., .inl ⟨din, dout, pos, rfl⟩⟩,
      fun _ _ _ _ _ => edgeStep_bitSlot_ne hrun din dout pos⟩
  · exact ⟨by simp, fun _ _ => ⟨hrun, edgeStep_bitSlot (s := setPrevClk false s) hrun ..,
      .inr ⟨din, dout, msel, pos, rfl, hclk⟩⟩, by simp⟩
  · exact ⟨fun cfg hi => absurd hi (hstart cfg), fun _ hmoved => absurd hsame hmoved,
      fun din dout pos hi hrun => absurd hi (hedge hrun din dout pos)⟩

/-- Settles O42: of the four things an operation can do to the phase, three change it. -/
theorem phaseChangesOnlyAlongItsArcs : Obligations.PhaseChangesOnlyAlongItsArcs := by
  unfold Obligations.PhaseChangesOnlyAlongItsArcs
  intro i s t hexec hchanged
  obtain ⟨cfg, hi, -, rfl⟩ | ⟨cfg, hi, -, rfl⟩ | ⟨hi, hrun, rfl⟩ | hkeeps := exec_session_cases hexec
  · exact .inl ⟨cfg, hi, .inr rfl⟩
  · exact .inl ⟨cfg, hi, .inl rfl⟩
  · exact .inr ⟨hi, hrun, rfl⟩
  · exact absurd hkeeps.phase hchanged

/-- Settles O43: without a start the session registers keep their flags, and only SAMPLERATE writes the rate. -/
theorem onlySessionStartWritesTheFlags : Obligations.OnlySessionStartWritesTheFlags := by
  unfold Obligations.OnlySessionStartWritesTheFlags
  intro i s t hexec hstart
  have hrate (h : ∀ rate, i ≠ .samplerate rate) : t.samplerate = s.samplerate := by
    obtain ⟨u, hu, hkeeps⟩ := exec_keepsInputAndRate h s
    exact Host.Outcome.next.inj (hexec.symm.trans hu) ▸ hkeeps.samplerate
  obtain ⟨cfg, hi, -, -⟩ | ⟨cfg, hi, -, -⟩ | ⟨-, -, rfl⟩ | hkeeps := exec_session_cases hexec
  · exact absurd hi (hstart cfg)
  · exact absurd hi (hstart cfg)
  · exact ⟨rfl, rfl, rfl, rfl, hrate⟩
  · exact ⟨hkeeps.hasDout, hkeeps.hasMsel, hkeeps.faultCause, hkeeps.initCount, hrate⟩

/-- Settles O44: one emission is appended, of at most the four records of a burst. -/
theorem everyOperationCompletes : Obligations.EveryOperationCompletes := by
  unfold Obligations.EveryOperationCompletes
  intro i s
  obtain ⟨t, hexec, new, hout, hnew⟩ := exec_appends i s
  exact ⟨t, new, hexec, hout, hnew.length_le_four, exec_input hexec⟩

/-- Settles O49: the words of transactions are those of the input port, and a step executes the one it takes. -/
theorem stepTakesOneTransactionAndOnlyAppends : Obligations.StepTakesOneTransactionAndOnlyAppends := by
  unfold Obligations.StepTakesOneTransactionAndOnlyAppends
  refine ⟨fun w i htxn => ?port, fun word i => isTransaction_of_decode, fun s t hstep => ?step⟩
  case port =>
    cases i with
    | sessionStart | samplerate | sample | edge | endOfStream | reservedOp5 | reservedOp6_7 => rfl
    | setOffsetL | setOffsetH | setData | getOffset | readFlash | ping | readCustom | setXpage | writeFlash
    | writeCustom | frameStart | shiftDin | shiftDout | sync | recDataIn | recCommand | recDataOut | recSync
    | recWarning => exact absurd htxn Bool.false_ne_true
  case step =>
    obtain ⟨hnil, rfl⟩ | ⟨word, rest, i, hcons, htxn, hexec⟩ := step_next_cases hstep
    · exact ⟨by rw [hnil, List.tail_nil], [], (List.append_nil _).symm, .inl rfl⟩
    · have hinput : t.input = rest := exec_input hexec
      refine ⟨by rw [hinput, hcons, List.tail_cons], ?_⟩
      obtain hout | ⟨start, stop, din, dout, gate, hout⟩ := exec_transaction_output htxn hexec
      · exact ⟨[], hout.trans (List.append_nil _).symm, .inl rfl⟩
      · exact ⟨_, hout, .inr ⟨start, stop, din, dout, gate, rfl⟩⟩

/-- Settles O51: a data edge emits nothing, and the sync edge's records span from the held start to its own position. -/
theorem spansRunForwardWhenPositionsDo : Obligations.SpansRunForwardWhenPositionsDo := by
  unfold Obligations.SpansRunForwardWhenPositionsDo
  intro s din dout pos hinv hrun hforward
  have hcarried := edgeStep_forward hinv hrun hforward din dout
  by_cases h8 : s.bitSlot < 8
  · obtain ⟨t, hexec, -, -, hout⟩ := exec_edge_of_dataDue ⟨hrun, h8⟩ din dout pos
    obtain rfl : edgeStep din dout pos s = t := Host.Outcome.next.inj hexec
    exact ⟨_, [], rfl, hout.trans (List.append_nil _).symm, by simp, hcarried⟩
  · have hdue : SyncDue s := ⟨hrun, slot_eq_eight h8⟩
    have hexec := exec_edge_of_syncDue hdue din dout pos
    obtain ⟨start, hstart, hle⟩ := frameStart_le_of_forwardTo hinv hrun (by rw [hdue.2]; decide) hforward
    rw [startPosValue_of_some hstart] at hexec
    refine ⟨_, _, rfl, congrArg State.output (Host.Outcome.next.inj hexec), fun r hr => ?_, hcarried⟩
    obtain ⟨hbegin, hspan, hend⟩ := burst_spans_forward hle hr
    exact ⟨hspan, hend, fun a ha => Option.some.inj (hstart.symm.trans ha) ▸ hbegin⟩

end Sys2Proof.Proofs
end

section
/-! SUPPORT. Samples as edges (R170 to R172): the edge neither reads nor writes the previous clock level, so that a
sequence of samples does what the edges at its falls do. -/

namespace Sys2Proof.Proofs

open Sys2Proof.Machine Sys2Proof.Statements

/-! ### The previous clock level and an edge -/

/-- The state with another previous clock level. -/
def withPrevClk (prev : Option Level) (s : State) : State := { s with prevClk := prev }

theorem setPrevClk_eq_withPrevClk (clk : Level) (s : State) : setPrevClk clk s = withPrevClk (some clk) s := rfl

@[simp] theorem withPrevClk_withPrevClk (prev prev' : Option Level) (s : State) :
    withPrevClk prev (withPrevClk prev' s) = withPrevClk prev s := rfl

/-- An edge commutes with every write of the previous clock level, in each of its cases. -/
theorem edgeStep_withPrevClk (prev : Option Level) (din dout : Level) (pos : Pos) (s : State) :
    edgeStep din dout pos (withPrevClk prev s) = withPrevClk prev (edgeStep din dout pos s) := by
  obtain ⟨hidle, h⟩ | ⟨hrun, h0, h⟩ | ⟨hrun, h0, h8, h⟩ | ⟨hrun, h8, h⟩ := edgeStep_cases din dout pos s <;> rw [h]
  · exact edgeStep_idle (s := withPrevClk prev s) hidle din dout pos
  · exact edgeStep_first (s := withPrevClk prev s) hrun h0 din dout pos
  · exact edgeStep_data (s := withPrevClk prev s) hrun h0 h8 din dout pos
  · rw [edgeStep_sync (s := withPrevClk prev s) hrun h8, syncFrame, syncFrame, emitFrame_eq_burst, emitFrame_eq_burst]
    rfl

/-! ### One sample -/

/-- A sample that is no fall only writes the previous clock level (R171). -/
theorem exec_sample_of_no_fall {s : State} (hrun : s.phase = .run) {clk : Level}
    (hno : ¬ (s.prevClk = some true ∧ clk = false)) (din dout msel : Level) (pos : Pos) :
    exec (.sample clk din dout msel pos) s = .next (withPrevClk (some clk) s) := by
  have hfalls : ¬ clockFalls s.prevClk clk = true := mt (clockFalls_iff s.prevClk clk).mp hno
  rw [exec, execSample, if_pos hrun, if_neg hfalls, setPrevClk_eq_withPrevClk]

/-- A sample at a fall is its edge, with the previous clock level written (R171). -/
theorem exec_sample_eq_edgeStep {s : State} (hrun : s.phase = .run) (hprev : s.prevClk = some true)
    (din dout msel : Level) (pos : Pos) :
    exec (.sample false din dout msel pos) s = .next (withPrevClk (some false) (edgeStep din dout pos s)) := by
  rw [exec_sample_of_fall hrun hprev, exec, execEdge, setPrevClk_eq_withPrevClk, edgeStep_withPrevClk]

/-! ### A sequence of samples -/

/-- From any previous clock level, the samples and the edges at their falls differ in that level only. -/
theorem execAll_samples (samples : List Sample) {s : State} (hrun : s.phase = .run) :
    ∃ t, execAll (samples.map Sample.toInstr) s = .next t ∧ t.prevClk = clockAfter s.prevClk samples ∧
      ∀ prev, execAll (fallingEdges s.prevClk samples) (withPrevClk prev s) = .next (withPrevClk prev t) := by
  induction samples generalizing s with
  | nil => exact ⟨s, rfl, rfl, fun _ => rfl⟩
  | cons x rest ih =>
    obtain ⟨clk, din, dout, msel, pos⟩ := x
    by_cases hfall : s.prevClk = some true ∧ clk = false
    · obtain ⟨hprev, rfl⟩ := hfall
      have hkeeps := edgeStep_keepsSession din dout pos s
      obtain ⟨t, hexec, hclk, hedges⟩ := ih (s := withPrevClk (some false) (edgeStep din dout pos s))
        (hkeeps.phase.trans hrun)
      refine ⟨t, (execAll_cons (exec_sample_eq_edgeStep hrun hprev din dout msel pos) _).trans hexec, hclk,
        fun prev => ?_⟩
      have hedge : exec (.edge din dout pos) (withPrevClk prev s) =
          .next (withPrevClk prev (edgeStep din dout pos s)) :=
        congrArg Host.Outcome.next (edgeStep_withPrevClk prev din dout pos s)
      rw [fallingEdges, if_pos ⟨hprev, rfl⟩]
      exact (execAll_cons hedge _).trans (hedges prev)
    · obtain ⟨t, hexec, hclk, hedges⟩ := ih (s := withPrevClk (some clk) s) hrun
      refine ⟨t, (execAll_cons (exec_sample_of_no_fall hrun hfall din dout msel pos) _).trans hexec, hclk,
        fun prev => ?_⟩
      rw [fallingEdges, if_neg hfall]
      exact hedges prev

/-! ### The statements -/

/-- Settles O33: the fall of the clock is the one test of the sample. -/
theorem sampleActsAsEdgeExactlyAtAFall : Obligations.SampleActsAsEdgeExactlyAtAFall := by
  unfold Obligations.SampleActsAsEdgeExactlyAtAFall
  intro s clk din dout msel pos hrun
  refine ⟨fun hprev hlow => ?fall, fun hno => exec_sample_of_no_fall hrun hno din dout msel pos, fun _ => rfl⟩
  subst hlow
  exact ⟨_, exec_sample_of_fall hrun hprev din dout msel pos, rfl⟩

/-- Settles O34: the sequence of samples, compared with its edges at the clock level before it. -/
theorem samplesActAsTheirFallingEdges : Obligations.SamplesActAsTheirFallingEdges := by
  unfold Obligations.SamplesActAsTheirFallingEdges
  intro samples s hrun
  obtain ⟨t, hexec, hclk, hedges⟩ := execAll_samples samples hrun
  exact ⟨t, hexec, hedges s.prevClk, hclk⟩

/-- Settles O35: the first sample has the clock high and is no fall, the second then is one. -/
theorem clockfallIsOneEdge : Obligations.ClockfallIsOneEdge := by
  unfold Obligations.ClockfallIsOneEdge
  intro s din dout p hrun
  have hhigh := exec_sample_of_no_fall (s := s) (clk := true) hrun (by simp) din dout false (p - 1)
  have hlow := exec_sample_eq_edgeStep (s := withPrevClk (some true) s) hrun rfl din dout false p
  rw [edgeStep_withPrevClk, withPrevClk_withPrevClk, ← edgeStep_withPrevClk] at hlow
  exact ⟨_, (execAll_cons hhigh _).trans (execAll_cons hlow []), rfl⟩

end Sys2Proof.Proofs
end

section
/-! SUPPORT. The registers that nothing reads (R32, R37, R39): two states that differ in them alone answer every
operation with states that differ in them alone. -/

namespace Sys2Proof.Proofs

open Sys2Proof.Machine Sys2Proof.Statements

/-! ### The registers that nothing reads -/

/-- The state with other values in `has_msel`, `last_pos` and `samplerate`. -/
def withUnread (msel : Level) (last : Option Pos) (rate : Option Rate) (s : State) : State :=
  { s with hasMsel := msel, lastPos := last, samplerate := rate }

/-- The state `t'` is `t` but for the registers that nothing reads. -/
def SameButUnread (t t' : State) : Prop := ∃ msel last rate, t' = withUnread msel last rate t

theorem SameButUnread.eq_erased {t t' : State} (h : SameButUnread t t') :
    withUnread false none none t = withUnread false none none t' := by
  obtain ⟨msel, last, rate, rfl⟩ := h
  rfl

section Unread

variable {s s' : State}

/-- A choice that reads none of these registers is the same in both states. -/
theorem SameButUnread.ite {c : Prop} [Decidable c] {t t' : State} (h : SameButUnread s s') (ht : SameButUnread t t') :
    SameButUnread (if c then t else s) (if c then t' else s') := by
  split
  · exact ht
  · exact h

theorem SameButUnread.syncFrame (h : SameButUnread s s') (pos : Pos) :
    SameButUnread (syncFrame pos s) (syncFrame pos s') := by
  obtain ⟨msel, last, rate, rfl⟩ := h
  rw [Machine.syncFrame, Machine.syncFrame, emitFrame_eq_burst, emitFrame_eq_burst]
  exact ⟨msel, last, rate, rfl⟩

theorem SameButUnread.edgeStep (h : SameButUnread s s') (din dout : Level) (pos : Pos) :
    SameButUnread (edgeStep din dout pos s) (edgeStep din dout pos s') := by
  obtain ⟨msel, last, rate, rfl⟩ := h
  obtain ⟨hidle, he⟩ | ⟨hrun, h0, he⟩ | ⟨hrun, h0, h8, he⟩ | ⟨hrun, h8, he⟩ := edgeStep_cases din dout pos s <;> rw [he]
  · exact ⟨msel, last, rate, edgeStep_idle (s := withUnread msel last rate s) hidle din dout pos⟩
  · exact ⟨msel, some pos, rate, edgeStep_first (s := withUnread msel last rate s) hrun h0 din dout pos⟩
  · exact ⟨msel, some pos, rate, edgeStep_data (s := withUnread msel last rate s) hrun h0 h8 din dout pos⟩
  · rw [edgeStep_sync (s := withUnread msel last rate s) hrun h8]
    exact SameButUnread.syncFrame ⟨msel, some pos, rate, rfl⟩ pos

theorem SameButUnread.execSample (h : SameButUnread s s') (clk din dout : Level) (pos : Pos) :
    ∃ t t', execSample clk din dout pos s = .next t ∧ execSample clk din dout pos s' = .next t' ∧
      SameButUnread t t' := by
  obtain ⟨msel, last, rate, rfl⟩ := h
  have hclk : SameButUnread (setPrevClk clk s) (setPrevClk clk (withUnread msel last rate s)) := ⟨msel, last, rate, rfl⟩
  exact ⟨_, _, rfl, rfl, .ite ⟨msel, last, rate, rfl⟩ (.ite hclk (hclk.edgeStep din dout pos))⟩

/-- Of two states that differ in these registers alone, every operation has next states that do. -/
theorem SameButUnread.exec (h : SameButUnread s s') (i : Instr) :
    ∃ t t', exec i s = .next t ∧ exec i s' = .next t' ∧ SameButUnread t t' := by
  have hsame := h
  obtain ⟨msel, last, rate, rfl⟩ := h
  cases i with
  | setOffsetL | setOffsetH | setData | getOffset | readFlash | ping | readCustom | setXpage | writeFlash
  | writeCustom => exact ⟨_, _, rfl, rfl, hsame.ite ⟨msel, last, rate, rfl⟩⟩
  | sessionStart cfg =>
    by_cases hcause : causeMask cfg = 0
    · exact ⟨_, _, exec_sessionStart_of_wired hcause _, exec_sessionStart_of_wired hcause _, _, _, rate, rfl⟩
    · exact ⟨_, _, exec_sessionStart_of_missing hcause _, exec_sessionStart_of_missing hcause _, _, _, rate, rfl⟩
  | samplerate new => exact ⟨_, _, rfl, rfl, msel, last, some new, rfl⟩
  | sample clk din dout _ pos => exact hsame.execSample clk din dout pos
  | edge din dout pos => exact ⟨_, _, rfl, rfl, hsame.edgeStep din dout pos⟩
  | reservedOp5 | reservedOp6_7 | recWarning => exact ⟨_, _, rfl, rfl, hsame⟩
  | endOfStream | frameStart | shiftDin | shiftDout | recCommand | recDataOut =>
    exact ⟨_, _, rfl, rfl, hsame.ite ⟨msel, last, rate, rfl⟩⟩
  | sync pos => exact ⟨_, _, rfl, rfl, hsame.ite (hsame.syncFrame pos)⟩
  | recDataIn | recSync => exact ⟨_, _, rfl, rfl, msel, last, rate, rfl⟩

end Unread

/-- Settles O32: the next states differ in these registers alone, so erasing them leaves equal states. -/
theorem unreadRegistersChangeNothingElse : Obligations.UnreadRegistersChangeNothingElse := by
  unfold Obligations.UnreadRegistersChangeNothingElse
  intro i s msel last rate
  have hsame : SameButUnread s (withUnread msel last rate s) := ⟨msel, last, rate, rfl⟩
  obtain ⟨t, t', hexec, hexec', hsame'⟩ := hsame.exec i
  exact ⟨t, t', hexec, hexec', hsame'.eq_erased⟩

end Sys2Proof.Proofs
end

section
/-! SUPPORT. Runs of a source, finite or infinite (R8, R174, R176): a run is the sequence of the transactions issued,
and a source of edges without end closes a frame at every ninth moment. -/

namespace Sys2Proof.Proofs

open Sys2Proof.Machine Sys2Proof.Statements

/-! ### A run as the transactions it has executed -/

section Runs

variable {source : Source} {is : Nat → Option Instr} {s : State}

/-- One moment at which everything issued before is taken: the transaction issued, or a wait (R59, R174). -/
theorem step_feed_of_issues (hissues : Issues source is) (n : Nat) {t : State} (ht : t.input = []) :
    step (t.feed (source n)) = execAll (is n).toList t := by
  obtain ⟨hsource, his⟩ | ⟨word, i, hsource, his, hd⟩ := hissues n
  · rw [hsource, his, step_feed_none ht]
    rfl
  · obtain ⟨u, hexec, -⟩ := exec_appends i t
    rw [hsource, his, step_feed_some ht hd, hexec]
    exact (execAll_cons hexec []).symm

/-- Operations leave an empty input empty. -/
theorem execAll_input {is : List Instr} {t : State} (h : execAll is s = .next t) : t.input = s.input := by
  induction is generalizing s with
  | nil => rw [Host.Outcome.next.inj h]
  | cons i rest ih =>
    obtain ⟨u, hexec, -⟩ := exec_appends i s
    rw [execAll_cons hexec] at h
    exact (ih h).trans (exec_input hexec)

/-- Operations complete, and only append to the output (R62, R178). -/
theorem execAll_appends (is : List Instr) (s : State) :
    ∃ t new, execAll is s = .next t ∧ t.output = s.output ++ new := by
  induction is generalizing s with
  | nil => exact ⟨s, [], rfl, (List.append_nil _).symm⟩
  | cons i rest ih =>
    obtain ⟨u, hexec, new, hout, -⟩ := exec_appends i s
    obtain ⟨t, new', hall, hout'⟩ := ih u
    exact ⟨t, new ++ new', (execAll_cons hexec rest).trans hall, by rw [hout', hout, List.append_assoc]⟩

/-- From a moment of a run, the moments after it are the transactions issued from then on, in their order. -/
theorem run_add (hissues : Issues source is) {n : Nat} {t : State} (hrun : run source n s = .next t)
    (ht : t.input = []) (m : Nat) :
    run source (n + m) s = execAll ((List.range m).filterMap fun k => is (n + k)) t := by
  induction m with
  | zero => exact hrun
  | succ m ih =>
    obtain ⟨u, -, hall, -⟩ := execAll_appends ((List.range m).filterMap fun k => is (n + k)) t
    have hu : u.input = [] := (execAll_input hall).trans ht
    rw [List.range_succ, List.filterMap_append, execAll_append hall, ← Nat.add_assoc, run_succ (ih.trans hall),
      step_feed_of_issues hissues (n + m) hu]
    cases hi : is (n + m) <;> simp [hi]

/-- Every moment of a run has a next state, with everything issued taken (R176, R178). -/
theorem run_completes (hissues : Issues source is) (hs : s.input = []) (n : Nat) :
    ∃ t, run source n s = .next t ∧ t.input = [] := by
  have hrun := run_add hissues (run_zero source s) hs n
  obtain ⟨t, -, hall, -⟩ := execAll_appends ((List.range n).filterMap fun k => is (0 + k)) s
  rw [Nat.zero_add] at hrun
  exact ⟨t, hrun.trans hall, (execAll_input hall).trans hs⟩

/-! ### Edges without end -/

/-- The state at a frame boundary of a session with `has_dout` at `gate`, with everything issued taken. -/
structure AtBoundary (gate : Level) (t : State) : Prop where
  phase : t.phase = .run
  bitSlot : t.bitSlot = 0
  hasDout : t.hasDout = gate
  input : t.input = []

variable {edges : Nat → Level × Level × Pos}

/-- The nine edges that the source issues from moment `n` on. -/
def edgesFrom (edges : Nat → Level × Level × Pos) (n : Nat) : List Instr :=
  nineEdges (fun j => (edges (n + j)).1) (fun j => (edges (n + j)).2.1) (fun j => (edges (n + j)).2.2)
    (edges (n + 8)).1 (edges (n + 8)).2.1

/-- From a moment of a run of edges, up to nine moments on are as many of those nine edges. -/
theorem run_add_edges (hissues : Issues source fun n => some (.edge (edges n).1 (edges n).2.1 (edges n).2.2)) {n : Nat}
    {t : State} (hrun : run source n s = .next t) (ht : t.input = []) {m : Nat} (hm : m ≤ 9) :
    run source (n + m) s = execAll ((edgesFrom edges n).take m) t := by
  have hnine : (edgesFrom edges n).take m =
      (List.range m).filterMap fun k => some (.edge (edges (n + k)).1 (edges (n + k)).2.1 (edges (n + k)).2.2) := by
    have hrange : List.range m = (List.range 9).take m := by rw [List.take_range, Nat.min_eq_left hm]
    rw [List.filterMap_eq_map', hrange, List.map_take]
    rfl
  rw [hnine]
  exact run_add hissues hrun ht m

/-- From a boundary at moment `n`: eight edges emit nothing, the ninth emits one burst over the span of the nine and is
at a boundary again (R53, R54, R126). -/
theorem run_frame (hissues : Issues source fun n => some (.edge (edges n).1 (edges n).2.1 (edges n).2.2)) {n : Nat}
    {gate : Level} {t : State} (hrun : run source n s = .next t) (ht : AtBoundary gate t) :
    (∀ j ≤ 8, ∃ u, run source (n + j) s = .next u ∧ u.output = t.output ∧ u.bitSlot.val = j) ∧
      ∃ v din dout, run source (n + 9) s = .next v ∧ AtBoundary gate v ∧
        v.output = t.output ++ burst (edges n).2.2 (edges (n + 8)).2.2 din dout gate := by
  obtain ⟨hphase, h0, hgate, hinput⟩ := ht
  refine ⟨fun j hj => ?early, ?ninth⟩
  case early =>
    obtain ⟨u, hexec, -, hslot, hout⟩ : ∃ u, execAll ((edgesFrom edges n).take j) t = .next u ∧ u.phase = .run ∧
      u.bitSlot.val = j ∧ u.output = t.output := execAll_take_nineEdges hphase h0 _ _ _ _ _ hj
    exact ⟨u, (run_add_edges hissues hrun hinput (by omega)).trans hexec, hout, hslot⟩
  case ninth =>
    obtain ⟨din, dout, -, -, -, hexec⟩ := nineEdgesAssembleBothBytes t (fun j => (edges (n + j)).1)
      (fun j => (edges (n + j)).2.1) (fun j => (edges (n + j)).2.2) (edges (n + 8)).1 (edges (n + 8)).2.1 hphase h0
    subst hgate
    exact ⟨_, din, dout, (run_add_edges hissues hrun hinput (le_refl 9)).trans hexec, ⟨hphase, rfl, rfl, hinput⟩, rfl⟩

/-- Every ninth moment of such a run is at a frame boundary (R134). -/
theorem run_atBoundary (hissues : Issues source fun n => some (.edge (edges n).1 (edges n).2.1 (edges n).2.2))
    (hs : AtBoundary s.hasDout s) (k : Nat) : ∃ t, run source (9 * k) s = .next t ∧ AtBoundary s.hasDout t := by
  induction k with
  | zero => exact ⟨s, rfl, hs⟩
  | succ k ih =>
    obtain ⟨t, hrun, ht⟩ := ih
    obtain ⟨-, v, -, -, hninth, hv, -⟩ := run_frame hissues hrun ht
    exact ⟨v, hninth, hv⟩

end Runs

/-! ### The statements -/

/-- Settles O56: the run from its first moment. -/
theorem runExecutesWhatTheSourceIssues : Obligations.RunExecutesWhatTheSourceIssues := by
  unfold Obligations.RunExecutesWhatTheSourceIssues
  intro source is s hs hissues n
  simpa using run_add hissues (run_zero source s) hs n

/-- Settles O57: a run goes on from each of its moments by what is issued; of edges, each nine make one frame. -/
theorem endlessAndCeasedRunsAreLegal : Obligations.EndlessAndCeasedRunsAreLegal := by
  unfold Obligations.EndlessAndCeasedRunsAreLegal
  refine ⟨fun source is s hs hissues n => ?grows, fun source is s n hs hissues hceases m => ?ceased,
    fun source edges s hs hphase h0 hissues k => ?endless⟩
  case grows =>
    obtain ⟨t, hrun, ht⟩ := run_completes hissues hs n
    refine ⟨t, hrun, fun m => ?_⟩
    obtain ⟨u, new, hall, hout⟩ := execAll_appends ((List.range m).filterMap fun k => is (n + k)) t
    exact ⟨u, new, (run_add hissues hrun ht m).trans hall, hout⟩
  case ceased =>
    obtain ⟨t, hrun, ht⟩ := run_completes hissues hs n
    rw [run_of_ceases hrun ht hceases m, hrun]
  case endless =>
    obtain ⟨t, hrun, ht⟩ := run_atBoundary hissues ⟨hphase, h0, rfl, hs⟩ k
    obtain ⟨hearly, v, din, dout, hninth, hv, hout⟩ := run_frame hissues hrun ht
    exact ⟨t, hrun, hearly, v, din, dout, hninth, hv.bitSlot, hout⟩

end Sys2Proof.Proofs
end
